-- ==== Sys2Proof/Word.lean ====
section
/-! DEFINITION. The word types of the OX-T2640: register and memory widths named by Tables 4.3 to 4.7 (R69, R72, R74, R76) and Table 9.1. -/

namespace Sys2Proof

/-- A scalar register, an address, a predicate: 64 bits (R74). -/
abbrev Word := BitVec 64

/-- A vector register: 64 lanes of 32 bits (R74, R183). -/
abbrev Vec := BitVec 2048

/-- A block-scale register: the 512 held bits of e0 to e7 (R60). -/
abbrev Scales := BitVec 512

/-- A descriptor register g0 to g15 (R76). -/
abbrev Desc := BitVec 1024

/-- One byte of memory. -/
abbrev Byte := BitVec 8

/-- A 256-bit bundle (R66). -/
abbrev Bundle := BitVec 256

/-- A 32-bit slot or header word (R66, R69). -/
abbrev SlotWord := BitVec 32

end Sys2Proof
end

