-- ==== Sys2Proof/Machine/Bits.lean ====
section
/-! DEFINITION. Bit fields, sign extension, bytes and elements: how wide values are cut and put together (R3, R43). -/

namespace Sys2Proof.Machine

/-- The low `w` bits of `x` read in two's complement. -/
def toSigned (w x : Nat) : Int :=
  let y := x % 2 ^ w
  if 2 ^ (w - 1) ≤ y then (y : Int) - (2 ^ w : Nat) else y

/-- `i` modulo 2^w. -/
def wrapInt (w : Nat) (i : Int) : Nat := (i % ((2 ^ w : Nat) : Int)).toNat

/-- The low `w` bits of `x`, sign-extended to `v` bits. -/
def signExtend (w v x : Nat) : Nat := wrapInt v (toSigned w x)

/-- Bits `lo` to `lo + len - 1` of `x`. -/
def bitsOf (x lo len : Nat) : Nat := (x >>> lo) % 2 ^ len

/-- `x` with bits `lo` to `lo + len - 1` replaced by the low bits of `v`. -/
def setBits (x lo len v : Nat) : Nat :=
  let m := (2 ^ len - 1) <<< lo
  (x ||| m) ^^^ m ||| ((v % 2 ^ len) <<< lo)

/-- `2^n - 1`. -/
def onesNat (n : Nat) : Nat := 2 ^ n - 1

/-- The values of a list as elements of width `w`, the first lowest (R43). -/
def packElems (w : Nat) (l : List Nat) : Nat :=
  l.foldr (fun v acc => (acc <<< w) ||| (v % 2 ^ w)) 0

/-- The elements of width `w` of `x`, `n` of them, the lowest first. -/
def unpackElems (w : Nat) : Nat → Nat → List Nat
  | 0, _ => []
  | n + 1, x => (x % 2 ^ w) :: unpackElems w n (x >>> w)

/-- The `n` bytes of `x`, little-endian (R3). -/
def toBytes (n x : Nat) : List Byte := (unpackElems 8 n x).map (BitVec.ofNat 8)

/-- The number whose little-endian bytes are given (R3). -/
def ofBytes (l : List Byte) : Nat := packElems 8 (l.map BitVec.toNat)

/-- The bits of a mask, lowest first, as 64 numbers 0 or 1. -/
def maskBits (m : Word) : List Bool := (List.range 64).map fun l => m.getLsbD l

/-- A 64-bit mask from a test on bit positions. -/
def maskOf (f : Nat → Bool) : Word :=
  BitVec.ofNat 64 (packElems 1 ((List.range 64).map fun l => if f l then 1 else 0))

/-- The mask of 2048 bits in which lane `l` is all ones when bit `l` of `m` is 1. -/
def laneMask (m : Word) : Vec :=
  BitVec.ofNat 2048 (packElems 32 ((List.range 64).map fun l => if m.getLsbD l then 0xFFFFFFFF else 0))

/-- The mask of 512 bits in which byte `j` is all ones when bit `j` of `m` is 1. -/
def byteMask (m : Word) : Scales :=
  BitVec.ofNat 512 (packElems 8 ((List.range 64).map fun l => if m.getLsbD l then 0xFF else 0))

/-- All 64 bits set. -/
def allOnes64 : Word := BitVec.allOnes 64

/-- The number of 1 bits among the low `w` bits of `x`. -/
def popCount : Nat → Nat → Nat
  | 0, _ => 0
  | w + 1, x => x % 2 + popCount w (x / 2)

/-- The number of leading zeros of the low `w` bits. -/
def leadZeros : Nat → Nat → Nat
  | 0, _ => 0
  | w + 1, x => if x.testBit w then 0 else 1 + leadZeros w x

/-- The number of trailing zeros of the low `w` bits. -/
def trailZeros : Nat → Nat → Nat
  | 0, _ => 0
  | w + 1, x => if x % 2 = 1 then 0 else 1 + trailZeros w (x / 2)

/-- `n` equal numbers of `step` from `lo` on. -/
def strided (lo step n : Nat) : List Nat := (List.range n).map fun k => lo + step * k

/-- ⌈a / b⌉. -/
def ceilDiv (a b : Nat) : Nat := (a + b - 1) / b

end Sys2Proof.Machine
end

