-- ==== Sys2Proof/Machine/NumFmt.lean ====
section
/-! DEFINITION. Number formats and exact arithmetic (R43 to R58): exact reals, one rounding, sticky bits. -/

namespace Sys2Proof.Machine

/-- STAT.IV (Table 3.4). -/
def statIV : BitVec 6 := 1
/-- STAT.OF. -/
def statOF : BitVec 6 := 2
/-- STAT.UF. -/
def statUF : BitVec 6 := 4
/-- STAT.DZ. -/
def statDZ : BitVec 6 := 8
/-- STAT.RNG. -/
def statRNG : BitVec 6 := 16
/-- STAT.SAT. -/
def statSAT : BitVec 6 := 32

/-- An exact value: a NaN, an infinity, or (−1)^neg · m · 2^e, which keeps the sign of a zero. -/
inductive XReal where
  | nan
  | inf (neg : Bool)
  | fin (neg : Bool) (m : Nat) (e : Int)
  deriving DecidableEq, Repr

/-- A floating-point format (Table 3.2). -/
structure FloatFmt where
  expBits : Nat
  frac : Nat
  bias : Int
  /-- The encoding of the largest finite value. -/
  largest : Nat
  /-- The canonical quiet NaN. -/
  canon : Nat
  hasInf : Bool
  deriving DecidableEq, Repr

/-- Rounding modes (Table 3.5); SR carries the element's random word (R54). -/
inductive RMode where
  | rne
  | rz
  | rd
  | ru
  | sr (q : Nat)
  deriving DecidableEq, Repr

def FloatFmt.f64 : FloatFmt := ⟨11, 52, 1023, 0x7FEFFFFFFFFFFFFF, 0x7FF8000000000000, true⟩
def FloatFmt.f32 : FloatFmt := ⟨8, 23, 127, 0x7F7FFFFF, 0x7FC00000, true⟩
def FloatFmt.fa48 : FloatFmt := ⟨10, 37, 511, 0x7FDFFFFFFFFF, 0x7FF000000000, true⟩
def FloatFmt.f16 : FloatFmt := ⟨5, 10, 15, 0x7BFF, 0x7E00, true⟩
def FloatFmt.bf16 : FloatFmt := ⟨8, 7, 127, 0x7F7F, 0x7FC0, true⟩
def FloatFmt.f8e5 : FloatFmt := ⟨5, 2, 15, 0x7B, 0x7E, true⟩
def FloatFmt.f8e4 : FloatFmt := ⟨4, 3, 7, 0x7E, 0x7F, false⟩

/-- The width of a format: sign, exponent and fraction. -/
def FloatFmt.width (f : FloatFmt) : Nat := 1 + f.expBits + f.frac

/-- The encoding of the infinity of sign `neg`. -/
def FloatFmt.infBits (f : FloatFmt) (neg : Bool) : Nat :=
  (if neg then 2 ^ (f.expBits + f.frac) else 0) + (f.largest + 1)

/-- The exact value of an encoding (R46, R47). -/
def FloatFmt.read (f : FloatFmt) (bits : Nat) : XReal :=
  let neg := bits.testBit (f.expBits + f.frac)
  let mag := bits % 2 ^ (f.expBits + f.frac)
  let ex := mag >>> f.frac
  let fr := mag % 2 ^ f.frac
  if f.largest < mag then
    if f.hasInf && decide (mag = f.largest + 1) then .inf neg else .nan
  else if ex = 0 then .fin neg fr (1 - f.bias - f.frac)
  else .fin neg (2 ^ f.frac + fr) (ex - f.bias - f.frac)

/-- Whether a magnitude `lo + rem/2^k`, rem nonzero, goes up to `lo + 1` (R51 to R53). -/
def roundsUp (mode : RMode) (neg : Bool) (lo rem k : Nat) : Bool :=
  match mode with
  | .rne => decide (2 ^ k < 2 * rem) || (decide (2 ^ k = 2 * rem) && decide (lo % 2 = 1))
  | .rz => false
  | .rd => neg
  | .ru => !neg
  | .sr q => decide (q < (rem <<< 32) >>> k)

/-- `m · 2^e` in units of 2^u, rounded, with whether it was inexact. -/
def toGrid (mode : RMode) (neg : Bool) (m : Nat) (e u : Int) : Nat × Bool :=
  if u ≤ e then (m <<< (e - u).toNat, false)
  else
    let k := (u - e).toNat
    let lo := m >>> k
    let rem := m % 2 ^ k
    if rem = 0 then (lo, false)
    else (if roundsUp mode neg lo rem k then lo + 1 else lo, true)

/-- The encoding delivered when the rounded magnitude exceeds the largest finite value (step 4 of R52). -/
def FloatFmt.overflow (f : FloatFmt) (mode : RMode) (neg : Bool) : Nat :=
  let s := if neg then 2 ^ (f.expBits + f.frac) else 0
  if f.hasInf then
    match mode with
    | .rne | .sr _ => f.infBits neg
    | .rz => s + f.largest
    | .rd => if neg then f.infBits neg else s + f.largest
    | .ru => if neg then s + f.largest else f.infBits neg
  else s + f.largest

/-- round(fmt, x, mode) of R52 and R53, with the STAT bits it raises. -/
def FloatFmt.round (f : FloatFmt) (mode : RMode) (x : XReal) : Nat × BitVec 6 :=
  match x with
  | .nan => (f.canon, 0)
  | .inf neg => if f.hasInf then (f.infBits neg, 0) else (f.canon, statIV)
  | .fin neg m e =>
    let s := if neg then 2 ^ (f.expBits + f.frac) else 0
    if m = 0 then (s, 0)
    else
      let emin : Int := 1 - f.bias
      let ex : Int := (Nat.log2 m : Int) + e
      let q : Int := if emin ≤ ex then ex else emin
      let r := toGrid mode neg m e (q - f.frac)
      let mag := ((q - emin).toNat <<< f.frac) + r.1
      if f.largest < mag then (f.overflow mode neg, statOF)
      else (s + mag, if decide (ex < emin) && r.2 then statUF else 0)

/-- The value of an exact real rounded to an integer, clamped to `lo ≤ v ≤ hi` (R45), with STAT bits. -/
def roundInt (lo hi : Int) (mode : RMode) (x : XReal) : Int × BitVec 6 :=
  match x with
  | .nan => (0, statIV)
  | .inf neg => (if neg then lo else hi, statSAT)
  | .fin neg m e =>
    let r := (toGrid mode neg m e 0).1
    let v : Int := if neg then -(r : Int) else r
    if v < lo then (lo, statSAT) else if hi < v then (hi, statSAT) else (v, 0)

/-- An integer as an exact real. -/
def XReal.ofInt (i : Int) : XReal := .fin (decide (i < 0)) i.natAbs 0

/-- −x. -/
def XReal.negate : XReal → XReal
  | .nan => .nan
  | .inf n => .inf (!n)
  | .fin n m e => .fin (!n) m e

/-- x · 2^k, exactly. -/
def XReal.scale (x : XReal) (k : Int) : XReal :=
  match x with
  | .fin n m e => .fin n m (e + k)
  | y => y

/-- The exact sum, and whether it is invalid; a zero sum keeps a sign only when both terms are −0 (step 5 of R52). -/
def XReal.add (x y : XReal) : XReal × Bool :=
  match x, y with
  | .nan, _ => (.nan, false)
  | _, .nan => (.nan, false)
  | .inf a, .inf b => if a = b then (.inf a, false) else (.nan, true)
  | .inf a, .fin _ _ _ => (.inf a, false)
  | .fin _ _ _, .inf b => (.inf b, false)
  | .fin a m e, .fin b n k =>
    let l := if e ≤ k then e else k
    let i : Int := (m <<< (e - l).toNat : Nat)
    let j : Int := (n <<< (k - l).toNat : Nat)
    let t := (if a then -i else i) + (if b then -j else j)
    if t = 0 then (.fin (a && b && decide (m = 0) && decide (n = 0)) 0 l, false)
    else (.fin (decide (t < 0)) t.natAbs l, false)

/-- The exact product, and whether it is 0 · ∞ (R48). -/
def XReal.mul (x y : XReal) : XReal × Bool :=
  match x, y with
  | .nan, _ => (.nan, false)
  | _, .nan => (.nan, false)
  | .inf a, .inf b => (.inf (a != b), false)
  | .inf a, .fin b n _ => if n = 0 then (.nan, true) else (.inf (a != b), false)
  | .fin a m _, .inf b => if m = 0 then (.nan, true) else (.inf (a != b), false)
  | .fin a m e, .fin b n k => (.fin (a != b) (m * n) (e + k), false)

/-- IV if a flag is set. -/
def ivIf (b : Bool) : BitVec 6 := if b then statIV else 0

/-- round(fmt, x + y, RNE). -/
def FloatFmt.sum (f : FloatFmt) (x y : XReal) : Nat × BitVec 6 :=
  let s := x.add y
  let r := f.round .rne s.1
  (r.1, r.2 ||| ivIf s.2)

/-- round(fmt, x · y, RNE). -/
def FloatFmt.product (f : FloatFmt) (x y : XReal) : Nat × BitVec 6 :=
  let s := x.mul y
  let r := f.round .rne s.1
  (r.1, r.2 ||| ivIf s.2)

/-- round(fmt, x · y + z, RNE), one rounding of the exact sum. -/
def FloatFmt.fused (f : FloatFmt) (x y z : XReal) : Nat × BitVec 6 :=
  let p := x.mul y
  let s := p.1.add z
  let r := f.round .rne s.1
  (r.1, r.2 ||| ivIf (p.2 || s.2))

/-- The order of two exact values; none when either is a NaN (R56). −0 equals +0. -/
def XReal.order (x y : XReal) : Option Ordering :=
  match x, y with
  | .nan, _ => none
  | _, .nan => none
  | .inf a, .inf b => some (if a = b then .eq else if a then .lt else .gt)
  | .inf a, .fin _ _ _ => some (if a then .lt else .gt)
  | .fin _ _ _, .inf b => some (if b then .gt else .lt)
  | .fin a m e, .fin b n k =>
    let l := if e ≤ k then e else k
    let i : Int := (m <<< (e - l).toNat : Nat)
    let j : Int := (n <<< (k - l).toNat : Nat)
    some (compare (if a then -i else i) (if b then -j else j))

/-- Whether the value is a NaN. -/
def XReal.isNan : XReal → Bool
  | .nan => true
  | _ => false

/-- Whether the value is negative or −0. -/
def XReal.neg : XReal → Bool
  | .nan => false
  | .inf n => n
  | .fin n _ _ => n

/-- MIN and MAX (R56): the bits of the chosen operand, canon_nan for two NaNs; −0 is below +0. -/
def FloatFmt.select (f : FloatFmt) (wantMax : Bool) (a b : Nat) : Nat :=
  let x := f.read a
  let y := f.read b
  match x.isNan, y.isNan with
  | true, true => f.canon
  | true, false => b
  | false, true => a
  | false, false =>
    match x.order y with
    | some .lt => if wantMax then b else a
    | some .gt => if wantMax then a else b
    | _ => if x.neg = wantMax then b else a

/-- Element formats (Table 3.8) and the formats named by other fields (R65). -/
inductive ElemFmt where
  | int (signed : Bool) (w : Nat)
  | float (f : FloatFmt)
  deriving DecidableEq, Repr

/-- The format of an element format code 0 to 11; codes 12 to 15 name none and read as INT8. -/
def elemFmt : Nat → ElemFmt
  | 0 => .int true 8
  | 1 => .int false 8
  | 2 => .int true 16
  | 3 => .int false 16
  | 4 => .int true 32
  | 5 => .int false 32
  | 6 => .int true 4
  | 7 => .float .bf16
  | 8 => .float .f16
  | 9 => .float .f32
  | 10 => .float .f8e4
  | 11 => .float .f8e5
  | _ => .int true 8

/-- The width of an element format. -/
def ElemFmt.width : ElemFmt → Nat
  | .int _ w => w
  | .float f => f.width

/-- The exact value of an element. -/
def ElemFmt.read : ElemFmt → Nat → XReal
  | .int true w, x => XReal.ofInt (toSigned w x)
  | .int false w, x => XReal.ofInt (x % 2 ^ w : Nat)
  | .float f, x => f.read x

/-- The least and the greatest value of an integer format (R44). -/
def intRange (signed : Bool) (w : Nat) : Int × Int :=
  if signed then (-(2 ^ (w - 1) : Nat), (2 ^ (w - 1) : Nat) - 1) else (0, (2 ^ w : Nat) - 1)

/-- round(fmt, x, mode) for any element format: floats by R52, integers by R45. -/
def ElemFmt.round (f : ElemFmt) (mode : RMode) (x : XReal) : Nat × BitVec 6 :=
  match f with
  | .int s w =>
    let r := roundInt (intRange s w).1 (intRange s w).2 mode x
    (wrapInt w r.1, r.2)
  | .float g => g.round mode x

/-- A conversion scaled by the block scale E (R60): E = 0xFF is a NaN scale, which gives canon_nan or 0 and IV. -/
def ElemFmt.roundScaled (f : ElemFmt) (mode : RMode) (scale : Nat) (x : XReal) : Nat × BitVec 6 :=
  if scale = 0xFF then
    match f with
    | .int _ _ => (0, statIV)
    | .float g => (g.canon, statIV)
  else f.round mode (x.scale ((scale : Int) - 127))

/-- The random word of counter c (R54). -/
def srWord (seed c : Word) : Nat :=
  let z := seed ^^^ (c * 0x9E3779B97F4A7C15)
  let z := z ^^^ (z >>> 31)
  let z := z * 0xD6E8FEB86659FD93
  let z := z ^^^ (z >>> 29)
  let z := z * 0xA3B195F42C860E5B
  let z := z ^^^ (z >>> 32)
  z.toNat % 2 ^ 32

/-- The mode of a mode code (Table 3.5), given the element's random word: codes 5 to 7 are RNE (R82, RM). -/
def modeOf (code q : Nat) : RMode :=
  match code with
  | 1 => .rz
  | 2 => .rd
  | 3 => .ru
  | 4 => .sr q
  | _ => .rne

end Sys2Proof.Machine
end

