-- ==== Sys2Proof/Syntax.lean ====
section
/-! DEFINITION. The instructions: one constructor for every row of the opcode table: the slot-word forms (R69, R77) and the part's other steps. -/

namespace Sys2Proof

/-- The fields of a slot word (R69, Table 4.3): D, A, B, guard G and modifier F. -/
structure Fields where
  d : BitVec 6
  a : BitVec 6
  b : BitVec 6
  g : BitVec 4
  f : BitVec 4
  deriving DecidableEq, Repr

/-- The two vector slots, which share one map (R77). -/
inductive VUnit where
  | v0
  | v1
  deriving DecidableEq, Repr

/-- The two engine command slots, which share one map (R77). -/
inductive CPort where
  | c0
  | c1
  deriving DecidableEq, Repr

/-- A strike region (Table 18.1). Cores and clusters are named by their physical numbers. -/
inductive Region where
  | core (p : Nat)
  | tunGroup (cluster g : Nat)
  | cellarGroup (die g : Nat)
  | egress (die : Nat)
  deriving DecidableEq, Repr

/-- What a service command of queue configuration writes (Table 16.1), HEAD and PASS apart. -/
structure QueueConf where
  /-- The descriptor's offset in the cellar of the die that owns the queue (R272, R285). -/
  loc : Nat
  ring : Word
  log2n : Byte
  ctl : Byte
  tickets : BitVec 16
  group : BitVec 16
  vec : BitVec 16
  func : BitVec 16
  deriving DecidableEq, Repr

/-- Who submits a service command (R287): a function through its service mailbox, which only physical functions have (R326); the management port, once service firmware has enabled it (R335); the package itself, which kills a context whose committed copy is lost (R312). -/
inductive Via where
  | function (fn : Nat)
  | management
  | package
  deriving DecidableEq, Repr

/-- An SRAM word that has no location (Table 18.2): word of the cask, of the OPA queue or of the landing buffer of core `p`, named by the entry that holds it. -/
inductive TileWord where
  | cask (p n : Nat)
  | opaQueue (p n : Nat)
  | landing (p id : Nat)
  deriving DecidableEq, Repr

/-- What a flit brings (R328): a peer's write, RECV data of a channel, a reduction contribution with its group, reduction number and rank (R331), an atomic under the peer's tag; or the peer's word on the flits that it has received: the next one that it expects, or one that it asks for again. -/
inductive FlitLoad where
  | idle
  | write (pa : Nat) (bytes : List Byte)
  | data (channel : Nat) (bytes : List Byte)
  | contribution (group m rank : Nat) (f : BitVec 4) (total : Nat) (elems : List Nat)
  | atomic (src seq : Nat) (float : Bool) (op : Nat) (bf16 : Bool) (loc width : Nat) (operand cmp : Word)
  | ack (next : Nat)
  | again (seq : Nat)
  deriving DecidableEq, Repr

/-- The software-visible registers that a plain write may name (Table 0.2, R5). -/
inductive RegName where
  | hostmask
  | pcap
  | fto (die : Nat)
  | wepoch (die : Nat)
  | wlife (die : Nat)
  | ctbase
  | crbase (fn : Nat)
  | crlog2 (fn : Nat)
  /-- Word 0 (address) or 1 (data, and the mask bit) of an entry of a function's MSI-X table (Table 19.2, log 88). -/
  | msix (fn vec word : Nat)
  /-- Word 0 to 3 of an entry of the supervisor's pinned segment table (R256, Table 17.3). -/
  | supSegment (entry word : Nat)
  /-- What system software sets for a context (Table 1.5): SVEC, the bits BKE, SSTEP and HZD of MODE, its save area on a core. -/
  | contextSvec (ctx : Nat)
  | contextMode (ctx : Nat)
  | contextSave (core ctx : Nat)
  /-- The context that the tasks of a queue run in (R278, log 82). -/
  | queueContext (q : Nat)
  /-- Where the journal region of a die begins in its cellar (R285, log 71). -/
  | journalRegion (die : Nat)
  /-- The tail of a die's shootdown ring, and the answer to a fault entry of a die, in BAR0 of a physical function (R296, R302, R326, log 71). -/
  | shootdownDoorbell (fn die : Nat)
  | faultDoorbell (fn die : Nat)
  /-- The chip's number within its step domain, and the source's GSTEP that it takes as it joins one (R143, R330). -/
  | chip
  | gstep
  /-- Whether service mailbox commands are taken over the management port (R335). -/
  | mailboxEnable
  /-- Whether the checks of bring-up stage 1 to 3 fail (Table 19.4, log 61): the image that is there, or what the stage has to train. -/
  | stageFails (stage : Nat)
  deriving DecidableEq, Repr

/-- What service firmware forms at bring-up (R327, R322): a partition of clusters and the functions assigned to it. -/
structure PartConf where
  clusters : List Nat
  functions : List Nat
  deriving DecidableEq, Repr

/-- What service firmware sets at bring-up beside the partitions (R325, R333): the size of each tier device by port, CTBASE, the journal region of a die by its offset in the cellar, SLICE and HPE of groups. -/
structure ServiceConf where
  tiers : List (List Nat)
  ctbase : Word
  journals : List (Nat × Nat)
  slices : List (Nat × Nat × Nat)
  deriving DecidableEq, Repr

/-- One constructor per row of the opcode table. A slot-word row carries the word's fields as they stand; the V and C rows also say which of their two slots holds the word. The other rows carry the numbers that say which core, queue, operation or context the step is about. -/
inductive Instr where
  -- every slot
  | nop (f : Fields)
  -- S slot (Table 4.8)
  | add (f : Fields)
  | sub (f : Fields)
  | and (f : Fields)
  | or (f : Fields)
  | xor (f : Fields)
  | andn (f : Fields)
  | shl (f : Fields)
  | shr (f : Fields)
  | mul (f : Fields)
  | div (f : Fields)
  | min (f : Fields)
  | max (f : Fields)
  | bitc (f : Fields)
  | cmp (f : Fields)
  | sel (f : Fields)
  | mov (f : Fields)
  | li (f : Fields)
  | aadd (f : Fields)
  | ld (f : Fields)
  | st (f : Fields)
  | ldt (f : Fields)
  | ldx (f : Fields)
  | chk (f : Fields)
  | br (f : Fields)
  | brl (f : Fields)
  | jmp (f : Fields)
  | ret (f : Fields)
  | loop (f : Fields)
  | yield (f : Fields)
  | waitb (f : Fields)
  | barr (f : Fields)
  | amo (f : Fields)
  | brel (f : Fields)
  | trap (f : Fields)
  | crd (f : Fields)
  | cwr (f : Fields)
  | gset (f : Fields)
  | fadd (f : Fields)
  | fmul (f : Fields)
  | fma (f : Fields)
  | fcvt (f : Fields)
  | fcmp (f : Fields)
  | actb (f : Fields)
  | actp (f : Fields)
  | acte (f : Fields)
  | acta (f : Fields)
  | acts (f : Fields)
  | sret (f : Fields)
  | halt (f : Fields)
  -- V slots (Table 4.9)
  | vadd (u : VUnit) (f : Fields)
  | vsub (u : VUnit) (f : Fields)
  | vmul (u : VUnit) (f : Fields)
  | vmad (u : VUnit) (f : Fields)
  | vand (u : VUnit) (f : Fields)
  | vor (u : VUnit) (f : Fields)
  | vxor (u : VUnit) (f : Fields)
  | vshl (u : VUnit) (f : Fields)
  | vshr (u : VUnit) (f : Fields)
  | vmin (u : VUnit) (f : Fields)
  | vmax (u : VUnit) (f : Fields)
  | vabs (u : VUnit) (f : Fields)
  | vcmp (u : VUnit) (f : Fields)
  | vsel (u : VUnit) (f : Fields)
  | vfadd (u : VUnit) (f : Fields)
  | vfsub (u : VUnit) (f : Fields)
  | vfmul (u : VUnit) (f : Fields)
  | vfma (u : VUnit) (f : Fields)
  | vfmin (u : VUnit) (f : Fields)
  | vfmax (u : VUnit) (f : Fields)
  | vfcmp (u : VUnit) (f : Fields)
  | vfsgn (u : VUnit) (f : Fields)
  | vfcvt (u : VUnit) (f : Fields)
  | vfrce (u : VUnit) (f : Fields)
  | vfrse (u : VUnit) (f : Fields)
  | vshuf (u : VUnit) (f : Fields)
  | vbcast (u : VUnit) (f : Fields)
  | vslide (u : VUnit) (f : Fields)
  | vzip (u : VUnit) (f : Fields)
  | vred (u : VUnit) (f : Fields)
  | vscan (u : VUnit) (f : Fields)
  | vld (u : VUnit) (f : Fields)
  | vst (u : VUnit) (f : Fields)
  | vldt (u : VUnit) (f : Fields)
  | vldx (u : VUnit) (f : Fields)
  | vgath (u : VUnit) (f : Fields)
  | vscat (u : VUnit) (f : Fields)
  | vlde (u : VUnit) (f : Fields)
  | vpack (u : VUnit) (f : Fields)
  | vunpk (u : VUnit) (f : Fields)
  | plog (u : VUnit) (f : Fields)
  | pmov (u : VUnit) (f : Fields)
  | vpcnt (u : VUnit) (f : Fields)
  | vamo (u : VUnit) (f : Fields)
  -- M slot (Table 4.10)
  | opa (f : Fields)
  | opar (f : Fields)
  | zclr (f : Fields)
  | zmov (f : Fields)
  | zld (f : Fields)
  | zflush (f : Fields)
  | rcall (f : Fields)
  | txq (f : Fields)
  -- C slots (Table 4.11)
  | cpy (c : CPort) (f : Fields)
  | cpyt (c : CPort) (f : Fields)
  | rack (c : CPort) (f : Fields)
  | migr (c : CPort) (f : Fields)
  | redx (c : CPort) (f : Fields)
  | send (c : CPort) (f : Fields)
  | recv (c : CPort) (f : Fields)
  | kick (c : CPort) (f : Fields)
  | drain (c : CPort) (f : Fields)
  | ckpt (c : CPort) (f : Fields)
  | pref (c : CPort) (f : Fields)
  -- X slot (Table 4.12)
  | cmpt (f : Fields)
  | xalu (f : Fields)
  -- the core's own steps; `p` is a physical core number
  | bundleIssue (p : Nat)
  | firstBundle (p : Nat)
  | recoveryBundle (p : Nat)
  | oparRepetition (p : Nat)
  | loadArrival (p id : Nat)
  | segmentCommit (p : Nat)
  /-- `disagreements` counts what the witness of R316 finds: 0 as a rule, 1 or 2 after an error in the press. -/
  | opaEntryApply (p disagreements : Nat)
  | cmptOutcome (p : Nat)
  | residueCheck (p : Nat)
  | witnessReadCheck (p : Nat) (agrees : Bool)
  /-- The regions of a report, and the press cells it leaves uncorrectable: core, tile, cell (R312). -/
  | strikeReport (regions : List Region) (lost : List (Nat × Nat × Nat))
  /-- `good` says whether the committed copy passes its check (R312). -/
  | rollbackRestart (p : Nat) (good : Bool)
  /-- The corrected words, and the uncorrectable ones: locations, and words of a core tile that have none (R310, R311). -/
  | scrub (granules : List Nat) (uncorrectable : List Nat × List TileWord)
  | valueReturn (p : Nat)
  | waitbTimeout (p : Nat)
  | rendezvous (cluster : Nat)
  | routineReturn (p : Nat)
  | graftStart (p id : Nat)
  /-- With the disagreements that the witness finds at the press entries which the graft applies, in their order (R316). -/
  | graftCompletion (p : Nat) (id : Nat × List Nat)
  /-- With whether the unit's own check has failed (R35, R36, R319). -/
  | graftFault (p : Nat) (id : Nat × Bool)
  | stepGraftFault (p : Nat) (id : Nat × Bool)
  -- engines, homes and the solera
  | engineCompletion (op : Nat)
  | engineFault (op : Nat) (code : BitVec 7)
  | sendMatch (channel : Nat)
  | ckptGateOpen (op : Nat)
  | atomicAtHome (req : Nat)
  | routerMerge (reqs : List Nat)
  | compensatingCall (p : Nat)
  | compensationComplete (p : Nat)
  -- contexts and traps
  | trapEntry (p : Nat)
  | asyncReport (p : Nat)
  | softPreemption (p : Nat)
  | hardPreemption (p : Nat)
  | hpeExpiry (p : Nat)
  | contextSave (p : Nat)
  | resumption (p : Nat)
  | parkedSwitch (p : Nat)
  | kill (ctx : Via × Nat)
  | killComplete (ctx : Nat)
  -- queues and the scheduler
  | taskEnd (p : Nat)
  | doorbell (fn q : Nat)
  | kickScan (q : Nat)
  | taskLaunch (q : Nat)
  | taskCompletion (group : Nat)
  | arbiterDecision (group : Nat)
  | overrun (p : Nat)
  | schedulerTakeover (die : Nat)
  | queueConfiguration (q : Via × Nat) (conf : QueueConf)
  | groupConfiguration (group : Via × Nat) (clusters : List Nat) (slice hpe : Nat)
  | retry (act : Via × Nat)
  | discard (act : Via × Nat)
  | abandon (acts : Via × List Nat)
  | reductionGroupConfig (handle : Via × Nat) (ranks : List Nat)
  | channelConfig (channel : Via × Nat) (sender receiver : Nat)
  | mapout (die : Via × Nat) (unit : Nat)
  -- translation
  | shootdownPage (ctx : Nat) (sz : Nat) (va cva : Word)
  | shootdownRange (ctx : Nat) (va : Word) (len : Nat) (cva : Word)
  | shootdownContext (ctx : Nat) (cva : Word)
  | shootdownAll (cva : Word)
  | shootdownComplete
  | translationFault (op : Nat)
  | faultRetry (die entry : Nat)
  | faultDecline (die entry : Nat)
  | faultTimeout (die entry : Nat)
  | pageMove (op : Nat)
  | pageArrival (op : Nat)
  | foreignRead (port pa len : Nat)
  /-- Over an endpoint, and of a function of a host port. -/
  | foreignWrite (port : Nat × Nat) (pa : Nat) (bytes : List Byte)
  -- reliability
  | packetRelease (endpoint : Nat)
  | packetRebuild (endpoint : Nat)
  | histogramCount (die : Nat)
  | epochEnd (die : Nat)
  | orderlyShutdown
  -- bring-up, host, links and power
  | coldReset
  | trustedBaseFirmware
  | serviceFirmware (parts : List PartConf) (tiers : ServiceConf)
  | attestationRequest (nonce : BitVec 256)
  | identityKeyRequest
  | lifetimeRead (die : Nat)
  | counterRead (die : Nat)
  | flitReceive (link : Nat) (seq : Nat) (crcGood : Bool) (bytes : FlitLoad)
  | linkFail (link : Nat)
  | gstepTick
  | tierDeviceFailure (device : Nat × Nat)
  | droop (die : Nat)
  | powerCapWindow (stretched : Nat)
  | registerWrite (r : RegName) (v : Word)
  | linkRetrain (link : Nat)
  | schedulerCoreReload (die : Nat)
  | crheadWrite (fn : Nat) (v : BitVec 32)
  | framePoolFill (tier size : Nat) (frames : List Nat)
  | atomicRequestReplay (req : Nat)
  deriving DecidableEq, Repr

end Sys2Proof
end

