-- ==== Sys2Proof/Machine/Roles.lean ====
section
/-! DEFINITION. How each slot-word row uses its fields: the operand roles of D, A and B and the values of F that it takes (R71, R72, R78, R154, Tables 4.4, 4.5, 7.1 to 7.10, 8.1, 9.2, 9.5, 9.6). -/

namespace Sys2Proof.Machine

/-- What a field of a slot word names. -/
inductive Role where
  /-- An S-slot source: codes 0 to 59, and 62 for the literal. -/
  | sSrc
  /-- An S-slot source that excludes the literal (CMPT, R181). -/
  | sSrcNoLit
  /-- An S-slot destination: codes 0 to 59. -/
  | sDst
  /-- An address register, S codes 32 to 47 (R154). -/
  | addr
  /-- An address register number in bits 3:0, bits 5:4 reserved (R195). -/
  | addrNum
  /-- An s register number in bits 4:0, bit 5 reserved (R214). -/
  | rowReg
  /-- A V-slot source: codes 0 to 55, 62 and 63. -/
  | vSrc
  /-- A V-slot source that excludes the literal (CMPT, R181). -/
  | vSrcNoLit
  /-- A V-slot destination: codes 0 to 55 and 63. -/
  | vDst
  /-- A vector source of the press: codes 0 to 47, 62 and 63 (R211, R214). -/
  | pressSrc
  /-- A vector destination of the M slot: codes 0 to 47 and 63 (R215, R217). -/
  | pressDst
  /-- An e register as a destination: codes 48 to 55 (R200). -/
  | eDst
  /-- A control register number, 0 to 15 (R170). -/
  | ctl
  /-- A predicate, flag or descriptor number in bits 3:0, bits 5:4 reserved (R71). -/
  | low4
  /-- A tile or scale number in bits 2:0, bits 5:3 reserved (R71). -/
  | low3
  /-- The flag field of a C-slot command (R218). -/
  | cflag
  /-- An immediate or a split field in which the bits of the mask are reserved. -/
  | imm (reserved : BitVec 6)
  /-- A field the entry does not use. -/
  | unused
  deriving DecidableEq, Repr

/-- Whether `v` is no reserved code for the role: a reserved one traps ILLEGAL_ENCODING (R72, R154). -/
def Role.legal (r : Role) (v : BitVec 6) : Bool :=
  let n := v.toNat
  match r with
  | .sSrc => decide (n ≤ 59) || decide (n = 62)
  | .sSrcNoLit => decide (n ≤ 59)
  | .sDst => decide (n ≤ 59)
  | .addr => decide (32 ≤ n) && decide (n ≤ 47)
  | .vSrc => decide (n ≤ 55) || decide (n = 62) || decide (n = 63)
  | .vSrcNoLit => decide (n ≤ 55) || decide (n = 63)
  | .vDst => decide (n ≤ 55) || decide (n = 63)
  | .pressSrc => decide (n ≤ 47) || decide (n = 62) || decide (n = 63)
  | .pressDst => decide (n ≤ 47) || decide (n = 63)
  | .eDst => decide (48 ≤ n) && decide (n ≤ 55)
  | .ctl => decide (n ≤ 15)
  | _ => true

/-- The field as it is read once its reserved bits are read as zero (R82). -/
def Role.clean (r : Role) (v : BitVec 6) : BitVec 6 :=
  match r with
  | .addrNum | .low4 => v &&& 15
  | .rowReg => v &&& 31
  | .low3 => v &&& 7
  | .cflag => if v.getLsbD 4 then v &&& 31 else 0
  | .imm m => v &&& ~~~m
  | .unused => 0
  | _ => v

/-- Whether the field reads the bundle literal (R73). -/
def Role.readsLit (r : Role) (v : BitVec 6) : Bool :=
  match r with
  | .sSrc | .vSrc | .pressSrc => decide (v = 62)
  | _ => false

/-- What a row takes in F. -/
inductive FSpec where
  /-- F is not used; a nonzero F takes the RSVF fallback (R71). -/
  | unused
  /-- Every value is taken. -/
  | all
  /-- The values below `n` are taken, others take the MOD fallback (R82). -/
  | below (n : Nat)
  /-- The values listed are taken, others take the MOD fallback (R82). -/
  | only (l : List Nat)
  /-- The format codes listed are taken, others trap ILLEGAL_ENCODING (R78, Table 8.1). -/
  | formats (l : List Nat)
  deriving DecidableEq, Repr

/-- How a row uses its fields. -/
structure RowSpec where
  d : Role
  a : Role
  b : Role
  f : FSpec
  deriving DecidableEq, Repr

/-- Format codes 0 to 6, the integer formats (Table 8.1). -/
def intFormats : List Nat := [0, 1, 2, 3, 4, 5, 6]

/-- Format codes 0 to 11, every element format (Table 3.8). -/
def allFormats : List Nat := [0, 1, 2, 3, 4, 5, 6, 7, 8, 9, 10, 11]

/-- The F values of the contiguous and gather loads: a size in bits 1:0, bit 2 zero, MA in bit 3 (Table 8.1). -/
def memFormats : List Nat := [0, 1, 2, 3, 8, 9, 10, 11]

/-- The formats of the press rows (Table 9.2). -/
def pressFormats : List Nat := [0, 6, 7, 8, 10, 11]

/-- An S-slot row of two sources and one destination. -/
def aluSpec (f : FSpec) : RowSpec := ⟨.sDst, .sSrc, .sSrc, f⟩

/-- A V-slot row of two vector sources and one vector destination. -/
def vecSpec (l : List Nat) : RowSpec := ⟨.vDst, .vSrc, .vSrc, .formats l⟩

/-- F once a value that the row does not take is read as zero (R82, MOD and RSVF). -/
def FSpec.clean (fs : FSpec) (f : BitVec 4) : BitVec 4 :=
  match fs with
  | .unused => 0
  | .all => f
  | .below n => if f.toNat < n then f else 0
  | .only l => if l.contains f.toNat then f else 0
  | .formats _ => f

/-- GSET reads B in the dimension and stride forms only, and A in every form but .clr: the fields that a form's row in Table 7.6 does not name are unused (R71; DEDUCED, log 92). -/
def gsetSpec (f : BitVec 4) : RowSpec :=
  let n := ((FSpec.below 13).clean f).toNat
  ⟨.low4, if n = 12 then .unused else .sSrc, if decide (4 ≤ n) && decide (n ≤ 11) then .sSrc else .unused, .below 13⟩

/-- CMPT reads its operands in the class that F names (R181). -/
def cmptSpec (f : BitVec 4) : RowSpec :=
  let r := match ((FSpec.below 3).clean f).toNat with
    | 1 => Role.vSrcNoLit
    | 2 => Role.low4
    | _ => Role.sSrcNoLit
  ⟨.unused, r, r, .below 3⟩

/-- XALU writes a predicate for the compares and an S code otherwise (Table 7.10). -/
def xaluSpec (f : BitVec 4) : RowSpec :=
  let n := ((FSpec.below 14).clean f).toNat
  ⟨if 8 ≤ n then .low4 else .sDst, .sSrc, .sSrc, .below 14⟩

/-- PMOV moves between predicates and vectors as its form says (R204). -/
def pmovSpec (f : BitVec 4) : RowSpec :=
  let forms := FSpec.formats [0, 1, 2, 3, 4, 5]
  match f.toNat with
  | 1 | 4 => ⟨.vDst, .low4, .unused, forms⟩
  | 3 => ⟨.low4, .low4, .unused, forms⟩
  | _ => ⟨.low4, .vSrc, .unused, forms⟩

/-- ZCLR names a tile unless it clears all of them (R213). -/
def zclrSpec (f : BitVec 4) : RowSpec :=
  ⟨if ((FSpec.below 2).clean f).toNat = 1 then .unused else .low3, .unused, .unused, .below 2⟩

/-- ZFLUSH names a scale register in its .fa48 form only (R216). -/
def zflushSpec (f : BitVec 4) : RowSpec :=
  ⟨.low3, if ((FSpec.below 2).clean f).toNat = 1 then .low3 else .unused, .unused, .below 2⟩

/-- How each slot-word row uses its fields; nothing for the rows that are no slot word. D and B of a BREL are fields of its form whatever its F[0] (DEDUCED, log 84: R71 does not say). -/
def rowSpec : Instr → Option RowSpec
  | .add _ | .sub _ | .mul _ => some (aluSpec (.below 3))
  | .and _ | .or _ | .xor _ | .andn _ | .shl _ => some (aluSpec (.below 1))
  | .shr _ | .min _ | .max _ => some (aluSpec (.below 2))
  | .div _ => some (aluSpec (.below 4))
  | .bitc _ => some ⟨.sDst, .sSrc, .unused, .below 3⟩
  | .cmp _ => some ⟨.low4, .sSrc, .sSrc, .below 10⟩
  | .sel _ => some (aluSpec .all)
  | .mov _ => some ⟨.sDst, .sSrc, .unused, .below 4⟩
  | .li _ => some ⟨.sDst, .sSrc, .unused, .below 4⟩
  | .aadd _ => some (aluSpec .all)
  | .ld _ | .ldx _ => some ⟨.sDst, .addr, .sSrc, .all⟩
  | .st _ => some ⟨.sSrc, .addr, .sSrc, .only memFormats⟩
  | .ldt _ => some ⟨.sDst, .addr, .imm 0, .all⟩
  | .chk _ => some ⟨.imm 0, .sSrc, .imm 0, .unused⟩
  | .br _ | .brl _ => some ⟨.imm 0, .imm 0, .imm 0, .unused⟩
  | .jmp _ => some ⟨.unused, .sSrc, .unused, .unused⟩
  | .ret _ => some ⟨.unused, .sSrc, .unused, .unused⟩
  | .loop _ => some ⟨.imm 0, .sSrc, .imm 60, .below 9⟩
  | .yield _ | .trap _ | .acta _ => some ⟨.unused, .sSrc, .unused, .unused⟩
  | .waitb _ => some ⟨.sDst, .addr, .sSrc, .unused⟩
  | .barr _ | .actb _ => some ⟨.sDst, .addr, .unused, .unused⟩
  | .amo _ => some ⟨.sDst, .imm 0, .sSrc, .all⟩
  | .brel _ => some ⟨.imm 0, .sSrc, .imm 0, .below 2⟩
  | .crd _ => some ⟨.sDst, .ctl, .unused, .unused⟩
  | .cwr _ => some ⟨.ctl, .sSrc, .unused, .unused⟩
  | .gset f => some (gsetSpec f.f)
  | .fadd _ => some (aluSpec (.below 4))
  | .fmul _ => some (aluSpec (.below 2))
  | .fma _ => some (aluSpec (.below 8))
  | .fcvt _ => some ⟨.sDst, .sSrc, .imm 0, .below 8⟩
  | .fcmp _ => some ⟨.low4, .sSrc, .sSrc, .all⟩
  | .actp _ => some ⟨.imm 0, .sSrc, .sSrc, .below 4⟩
  | .acte _ | .acts _ => some ⟨.sDst, .sSrc, .unused, .unused⟩
  | .sret _ | .halt _ => some ⟨.unused, .unused, .unused, .unused⟩
  | .vadd _ _ | .vsub _ _ | .vmul _ _ | .vmad _ _ | .vand _ _ | .vor _ _ | .vxor _ _
  | .vshl _ _ | .vshr _ _ | .vmin _ _ | .vmax _ _ => some (vecSpec intFormats)
  | .vabs _ _ => some ⟨.vDst, .vSrc, .unused, .formats [0, 2, 4, 6]⟩
  | .vpcnt _ _ => some ⟨.vDst, .vSrc, .unused, .formats intFormats⟩
  | .vcmp _ _ => some ⟨.imm 0, .vSrc, .vSrc, .formats intFormats⟩
  | .vsel _ _ => some (vecSpec allFormats)
  | .vfadd _ _ | .vfsub _ _ | .vfmul _ _ | .vfma _ _ | .vfmin _ _ | .vfmax _ _ => some (vecSpec [7, 8, 9])
  | .vfcmp _ _ => some ⟨.imm 0, .vSrc, .vSrc, .formats [7, 8, 9]⟩
  | .vfsgn _ _ => some (vecSpec [7, 8, 9, 10, 11])
  | .vfcvt _ _ => some ⟨.vDst, .vSrc, .imm 0, .formats [0, 1, 2, 3, 4, 5, 7, 8, 9, 10, 11]⟩
  | .vfrce _ _ | .vfrse _ _ => some ⟨.vDst, .vSrc, .unused, .formats [7, 9]⟩
  | .vshuf _ _ => some (vecSpec [0, 1, 2, 3, 4, 5, 7, 8, 9, 10, 11])
  | .vbcast _ _ | .vslide _ _ => some ⟨.vDst, .vSrc, .imm 0, .formats allFormats⟩
  | .vzip _ _ => some (vecSpec allFormats)
  | .vred _ _ | .vscan _ _ => some ⟨.vDst, .vSrc, .imm 60, .formats [0, 1, 2, 3, 4, 5, 7, 8, 9]⟩
  | .vld _ _ | .vldt _ _ | .vldx _ _ => some ⟨.vDst, .addrNum, .imm 0, .formats memFormats⟩
  | .vst _ _ => some ⟨.vSrc, .addrNum, .imm 0, .formats memFormats⟩
  | .vgath _ _ => some ⟨.vDst, .addrNum, .vSrc, .formats memFormats⟩
  | .vscat _ _ => some ⟨.vSrc, .addrNum, .vSrc, .formats [0, 1, 2, 8, 9, 10]⟩
  | .vlde _ _ => some ⟨.eDst, .addrNum, .imm 0, .formats [0]⟩
  | .vpack _ _ | .vunpk _ _ => some ⟨.vDst, .vSrc, .imm 0, .formats allFormats⟩
  | .plog _ _ => some ⟨.low4, .low4, .low4, .formats [0, 1, 2, 3, 4, 5, 6, 7]⟩
  | .pmov _ f => some (pmovSpec f.f)
  | .vamo _ _ => some ⟨.vDst, .imm 0, .vSrc, .formats [0, 1, 2, 8, 9, 10]⟩
  | .opa _ | .opar _ => some ⟨.imm 48, .pressSrc, .addr, .only pressFormats⟩
  | .zclr f => some (zclrSpec f.f)
  | .zmov _ => some ⟨.pressDst, .imm 0, .imm 0, .only [0, 2, 4, 7, 8, 9, 10, 11]⟩
  | .zld _ => some ⟨.low3, .pressSrc, .rowReg, .below 2⟩
  | .zflush f => some (zflushSpec f.f)
  | .rcall _ => some ⟨.low4, .imm 60, .imm 0, .unused⟩
  | .txq _ => some ⟨.pressDst, .addr, .sSrc, .below 4⟩
  | .cpy _ _ | .cpyt _ _ | .pref _ _ => some ⟨.cflag, .low4, .unused, .unused⟩
  | .rack _ _ => some ⟨.cflag, .low4, .sSrc, .below 4⟩
  | .migr _ _ => some ⟨.cflag, .low4, .sSrc, .below 2⟩
  | .redx _ _ => some ⟨.cflag, .low4, .sSrc, .only [0, 1, 2, 4, 5, 6, 8, 9, 10, 12, 13, 14]⟩
  | .send _ _ | .recv _ _ | .ckpt _ _ => some ⟨.cflag, .low4, .sSrc, .unused⟩
  | .kick _ _ => some ⟨.unused, .sSrc, .unused, .unused⟩
  | .drain _ _ => some ⟨.cflag, .unused, .unused, .below 5⟩
  | .cmpt f => some (cmptSpec f.f)
  | .xalu f => some (xaluSpec f.f)
  | _ => none

/-- The fields of a slot-word row; nothing for the rows that are no slot word. -/
def slotFields : Instr → Option Fields
  | .nop f | .add f | .sub f | .and f | .or f | .xor f | .andn f | .shl f | .shr f | .mul f | .div f
  | .min f | .max f | .bitc f | .cmp f | .sel f | .mov f | .li f | .aadd f | .ld f | .st f | .ldt f
  | .ldx f | .chk f | .br f | .brl f | .jmp f | .ret f | .loop f | .yield f | .waitb f | .barr f
  | .amo f | .brel f | .trap f | .crd f | .cwr f | .gset f | .fadd f | .fmul f | .fma f | .fcvt f
  | .fcmp f | .actb f | .actp f | .acte f | .acta f | .acts f | .sret f | .halt f => some f
  | .vadd _ f | .vsub _ f | .vmul _ f | .vmad _ f | .vand _ f | .vor _ f | .vxor _ f | .vshl _ f
  | .vshr _ f | .vmin _ f | .vmax _ f | .vabs _ f | .vcmp _ f | .vsel _ f | .vfadd _ f | .vfsub _ f
  | .vfmul _ f | .vfma _ f | .vfmin _ f | .vfmax _ f | .vfcmp _ f | .vfsgn _ f | .vfcvt _ f
  | .vfrce _ f | .vfrse _ f | .vshuf _ f | .vbcast _ f | .vslide _ f | .vzip _ f | .vred _ f
  | .vscan _ f | .vld _ f | .vst _ f | .vldt _ f | .vldx _ f | .vgath _ f | .vscat _ f | .vlde _ f
  | .vpack _ f | .vunpk _ f | .plog _ f | .pmov _ f | .vpcnt _ f | .vamo _ f => some f
  | .opa f | .opar f | .zclr f | .zmov f | .zld f | .zflush f | .rcall f | .txq f => some f
  | .cpy _ f | .cpyt _ f | .rack _ f | .migr _ f | .redx _ f | .send _ f | .recv _ f | .kick _ f
  | .drain _ f | .ckpt _ f | .pref _ f => some f
  | .cmpt f | .xalu f => some f
  | _ => none

/-- The index 1 to 7 of the slot word that holds the row (Table 4.1). -/
def slotIndex : Instr → Nat
  | .vadd u _ | .vsub u _ | .vmul u _ | .vmad u _ | .vand u _ | .vor u _ | .vxor u _ | .vshl u _
  | .vshr u _ | .vmin u _ | .vmax u _ | .vabs u _ | .vcmp u _ | .vsel u _ | .vfadd u _ | .vfsub u _
  | .vfmul u _ | .vfma u _ | .vfmin u _ | .vfmax u _ | .vfcmp u _ | .vfsgn u _ | .vfcvt u _
  | .vfrce u _ | .vfrse u _ | .vshuf u _ | .vbcast u _ | .vslide u _ | .vzip u _ | .vred u _
  | .vscan u _ | .vld u _ | .vst u _ | .vldt u _ | .vldx u _ | .vgath u _ | .vscat u _ | .vlde u _
  | .vpack u _ | .vunpk u _ | .plog u _ | .pmov u _ | .vpcnt u _ | .vamo u _ =>
    match u with
    | .v0 => 2
    | .v1 => 3
  | .opa _ | .opar _ | .zclr _ | .zmov _ | .zld _ | .zflush _ | .rcall _ | .txq _ => 4
  | .cpy c _ | .cpyt c _ | .rack c _ | .migr c _ | .redx c _ | .send c _ | .recv c _ | .kick c _
  | .drain c _ | .ckpt c _ | .pref c _ =>
    match c with
    | .c0 => 5
    | .c1 => 6
  | .cmpt _ | .xalu _ => 7
  | _ => 1

/-- Whether F is one of the formats the row lists (R78); only V-slot rows list formats. -/
def formatOk (s : RowSpec) (f : BitVec 4) : Bool :=
  match s.f with
  | .formats l => l.contains f.toNat
  | _ => true

/-- Step 1 of R79 for a slot word whose opcode its slot lists: no reserved operand code, no format that the row does not list (R72, R78, R154). -/
def operandsOk (i : Instr) : Bool :=
  match rowSpec i, slotFields i with
  | some s, some f => s.d.legal f.d && s.a.legal f.a && s.b.legal f.b && formatOk s f.f
  | _, _ => true

/-- The control registers that Table 7.5 marks PRIV at task level. -/
def privControl (n : Nat) : Bool := [8, 9, 10, 13].contains n

/-- Step 2 of R79: what traps PRIV at task level (R78, R170, R179). -/
def privileged (i : Instr) : Bool :=
  match i with
  | .sret _ | .halt _ => true
  | .crd f => privControl f.a.toNat
  | .cwr f => privControl f.d.toNat
  | _ => false

end Sys2Proof.Machine
end

