-- ==== Sys2Proof/Config.lean ====
section
/-! DEFINITION. What an implementation fixes and the values the spec leaves open. The opaque constants have no body: nothing can be proved of their values. -/

namespace Sys2Proof.Config

/-- FREE VALUE (log 6). Whether the part is of stepping B0 rather than A0 (R1); the two differ in one graft-table entry (R38). -/
opaque isB0 : Bool

/-- The strike report bound and commit delay D of OX-T2640 (R108, Table 1.1). -/
def commitDelay : Nat := 48

/-- FREE VALUE (log 6). Choice number `n` of a run, where the spec says that a byte holds one of two or more values and which one may vary from run to run (R127, R222, R225). -/
opaque freeChoice : Nat → Nat

/-- FREE VALUE (log 38). The die whose lifetime data counts the errors of the HBM4E granule at a PA (R311, Table 18.4). -/
opaque stackDie : Nat → BitVec 2

/-- FREE VALUE (log 8). The ML-DSA-65 signature of a report under the device identity key (R334). -/
opaque mldsaSign : List Byte → List Byte

/-- FREE VALUE (log 8). The digest of a bring-up stage's image: 0 the measured stage, 1 service firmware (R333). -/
opaque stageDigest : Nat → List Byte

/-- FREE VALUE (log 8). The digest of a configuration, from the numbers that service firmware sets in it (R333). -/
opaque confDigest : List Nat → List Byte

/-- FREE VALUE (log 8). The public identity key, and its certificate chain (R334). -/
opaque identityKey : List Byte
opaque certChain : List Byte

/-- FREE VALUE (log 6). Whether the first copy of a lifetime record is uncorrectable as it is read (R311, R320). -/
opaque lifeBad : Nat → Bool

/-- FREE VALUE (log 8). The die serial numbers of the part (R334). -/
opaque serials : List Byte

end Sys2Proof.Config
end

