-- ==== Sys2Proof/WellFormed.lean ====
section
/-! DEFINITION. What the issue check of step 1 of R79 admits: no reserved operand code and no format that a row does not list (R72, R78, R154). An ill-formed instruction is not one the machine refuses: its bundle traps ILLEGAL_ENCODING. -/

namespace Sys2Proof

open Sys2Proof.Machine

/-- LI is MOV from code 62, and MOV is any other move (R158, Table 4.8). -/
def spellingOk : Instr → Bool
  | .mov f => decide (f.a ≠ 62)
  | .li f => decide (f.a = 62)
  | .jmp f => decide (f.a ≠ 47)
  | .ret f => decide (f.a = 47)
  | _ => true

/-- The instruction passes step 1 of R79 in its slot. Rows that are no slot word have nothing to check. -/
def Instr.wellFormed (i : Instr) : Bool :=
  spellingOk i && operandsOk i

end Sys2Proof
end

