-- ==== Sys2Proof/Decode.lean ====
section
/-! DEFINITION. The decoder of slot words and bundle headers (R66 to R69, R77, Tables 4.1 to 4.3 and 4.8 to 4.12) and the encoder written from the same tables. -/

namespace Sys2Proof

/-- Why a word decodes to no instruction: its opcode is not in its slot's table (R77). Both are ILLEGAL_ENCODING traps of the bundle, and safe. -/
inductive DecodeError where
  /-- The opcode is not listed in the table of the slot with this index. -/
  | reservedOpcode (slot op : Nat)
  /-- There is no slot of this index. -/
  | noSuchSlot (slot : Nat)
  deriving DecidableEq, Repr

/-- Bits 25 to 0 of a slot word (Table 4.3). -/
def fieldsOf (w : SlotWord) : Fields :=
  ⟨w.extractLsb' 20 6, w.extractLsb' 14 6, w.extractLsb' 8 6, w.extractLsb' 4 4, w.extractLsb' 0 4⟩

/-- Bits 31 to 26 of a slot word: OP. -/
def opOf (w : SlotWord) : BitVec 6 := w.extractLsb' 26 6

/-- Table 4.8. MOV from code 62 is LI and JMP to a15 is RET (R158, R163). -/
def decodeS (op : BitVec 6) (f : Fields) : Option Instr :=
  match op.toNat with
  | 0x01 => some (.add f)
  | 0x02 => some (.sub f)
  | 0x03 => some (.and f)
  | 0x04 => some (.or f)
  | 0x05 => some (.xor f)
  | 0x06 => some (.andn f)
  | 0x07 => some (.shl f)
  | 0x08 => some (.shr f)
  | 0x09 => some (.mul f)
  | 0x0A => some (.div f)
  | 0x0B => some (.min f)
  | 0x0C => some (.max f)
  | 0x0D => some (.bitc f)
  | 0x0E => some (.cmp f)
  | 0x0F => some (.sel f)
  | 0x10 => some (if f.a = 62 then .li f else .mov f)
  | 0x11 => some (.aadd f)
  | 0x12 => some (.ld f)
  | 0x13 => some (.st f)
  | 0x14 => some (.ldt f)
  | 0x15 => some (.ldx f)
  | 0x16 => some (.chk f)
  | 0x17 => some (.br f)
  | 0x18 => some (.brl f)
  | 0x19 => some (if f.a = 47 then .ret f else .jmp f)
  | 0x1A => some (.loop f)
  | 0x1B => some (.yield f)
  | 0x1C => some (.waitb f)
  | 0x1D => some (.barr f)
  | 0x1E => some (.amo f)
  | 0x1F => some (.brel f)
  | 0x20 => some (.trap f)
  | 0x21 => some (.crd f)
  | 0x22 => some (.cwr f)
  | 0x23 => some (.gset f)
  | 0x24 => some (.fadd f)
  | 0x25 => some (.fmul f)
  | 0x26 => some (.fma f)
  | 0x27 => some (.fcvt f)
  | 0x28 => some (.fcmp f)
  | 0x29 => some (.actb f)
  | 0x2A => some (.actp f)
  | 0x2B => some (.acte f)
  | 0x2C => some (.acta f)
  | 0x2D => some (.acts f)
  | 0x2E => some (.sret f)
  | 0x2F => some (.halt f)
  | _ => none

/-- Table 4.9, for either vector unit. -/
def decodeV (u : VUnit) (op : BitVec 6) (f : Fields) : Option Instr :=
  match op.toNat with
  | 0x01 => some (.vadd u f)
  | 0x02 => some (.vsub u f)
  | 0x03 => some (.vmul u f)
  | 0x04 => some (.vmad u f)
  | 0x05 => some (.vand u f)
  | 0x06 => some (.vor u f)
  | 0x07 => some (.vxor u f)
  | 0x08 => some (.vshl u f)
  | 0x09 => some (.vshr u f)
  | 0x0A => some (.vmin u f)
  | 0x0B => some (.vmax u f)
  | 0x0C => some (.vabs u f)
  | 0x0D => some (.vcmp u f)
  | 0x0E => some (.vsel u f)
  | 0x0F => some (.vfadd u f)
  | 0x10 => some (.vfsub u f)
  | 0x11 => some (.vfmul u f)
  | 0x12 => some (.vfma u f)
  | 0x13 => some (.vfmin u f)
  | 0x14 => some (.vfmax u f)
  | 0x15 => some (.vfcmp u f)
  | 0x16 => some (.vfsgn u f)
  | 0x17 => some (.vfcvt u f)
  | 0x18 => some (.vfrce u f)
  | 0x19 => some (.vfrse u f)
  | 0x1A => some (.vshuf u f)
  | 0x1B => some (.vbcast u f)
  | 0x1C => some (.vslide u f)
  | 0x1D => some (.vzip u f)
  | 0x1E => some (.vred u f)
  | 0x1F => some (.vscan u f)
  | 0x20 => some (.vld u f)
  | 0x21 => some (.vst u f)
  | 0x22 => some (.vldt u f)
  | 0x23 => some (.vldx u f)
  | 0x24 => some (.vgath u f)
  | 0x25 => some (.vscat u f)
  | 0x26 => some (.vlde u f)
  | 0x27 => some (.vpack u f)
  | 0x28 => some (.vunpk u f)
  | 0x29 => some (.plog u f)
  | 0x2A => some (.pmov u f)
  | 0x2B => some (.vpcnt u f)
  | 0x2C => some (.vamo u f)
  | _ => none

/-- Table 4.10. -/
def decodeM (op : BitVec 6) (f : Fields) : Option Instr :=
  match op.toNat with
  | 0x01 => some (.opa f)
  | 0x02 => some (.opar f)
  | 0x03 => some (.zclr f)
  | 0x04 => some (.zmov f)
  | 0x05 => some (.zld f)
  | 0x06 => some (.zflush f)
  | 0x07 => some (.rcall f)
  | 0x08 => some (.txq f)
  | _ => none

/-- Table 4.11, for either command port. -/
def decodeC (c : CPort) (op : BitVec 6) (f : Fields) : Option Instr :=
  match op.toNat with
  | 0x01 => some (.cpy c f)
  | 0x02 => some (.cpyt c f)
  | 0x03 => some (.rack c f)
  | 0x04 => some (.migr c f)
  | 0x05 => some (.redx c f)
  | 0x06 => some (.send c f)
  | 0x07 => some (.recv c f)
  | 0x08 => some (.kick c f)
  | 0x09 => some (.drain c f)
  | 0x0A => some (.ckpt c f)
  | 0x0B => some (.pref c f)
  | _ => none

/-- Table 4.12. -/
def decodeX (op : BitVec 6) (f : Fields) : Option Instr :=
  match op.toNat with
  | 0x01 => some (.cmpt f)
  | 0x02 => some (.xalu f)
  | _ => none

/-- The instruction of a slot word in the slot of index 1 to 7 (Table 4.1). A word with OP = 0 is a NOP in every slot (R69). -/
def decodeSlot (slot : Nat) (w : SlotWord) : Except DecodeError Instr :=
  let op := opOf w
  let f := fieldsOf w
  if op = 0 then .ok (.nop f)
  else
    let r := match slot with
      | 1 => decodeS op f
      | 2 => decodeV .v0 op f
      | 3 => decodeV .v1 op f
      | 4 => decodeM op f
      | 5 => decodeC .c0 op f
      | 6 => decodeC .c1 op f
      | 7 => decodeX op f
      | _ => none
    match r with
    | some i => .ok i
    | none => if decide (1 ≤ slot) && decide (slot ≤ 7) then .error (.reservedOpcode slot op.toNat) else .error (.noSuchSlot slot)

/-- The opcode of a slot-word row (Tables 4.8 to 4.12). -/
def opcode : Instr → BitVec 6
  | .add _ => 0x01
  | .sub _ => 0x02
  | .and _ => 0x03
  | .or _ => 0x04
  | .xor _ => 0x05
  | .andn _ => 0x06
  | .shl _ => 0x07
  | .shr _ => 0x08
  | .mul _ => 0x09
  | .div _ => 0x0A
  | .min _ => 0x0B
  | .max _ => 0x0C
  | .bitc _ => 0x0D
  | .cmp _ => 0x0E
  | .sel _ => 0x0F
  | .mov _ => 0x10
  | .li _ => 0x10
  | .aadd _ => 0x11
  | .ld _ => 0x12
  | .st _ => 0x13
  | .ldt _ => 0x14
  | .ldx _ => 0x15
  | .chk _ => 0x16
  | .br _ => 0x17
  | .brl _ => 0x18
  | .jmp _ => 0x19
  | .ret _ => 0x19
  | .loop _ => 0x1A
  | .yield _ => 0x1B
  | .waitb _ => 0x1C
  | .barr _ => 0x1D
  | .amo _ => 0x1E
  | .brel _ => 0x1F
  | .trap _ => 0x20
  | .crd _ => 0x21
  | .cwr _ => 0x22
  | .gset _ => 0x23
  | .fadd _ => 0x24
  | .fmul _ => 0x25
  | .fma _ => 0x26
  | .fcvt _ => 0x27
  | .fcmp _ => 0x28
  | .actb _ => 0x29
  | .actp _ => 0x2A
  | .acte _ => 0x2B
  | .acta _ => 0x2C
  | .acts _ => 0x2D
  | .sret _ => 0x2E
  | .halt _ => 0x2F
  | .vadd _ _ => 0x01
  | .vsub _ _ => 0x02
  | .vmul _ _ => 0x03
  | .vmad _ _ => 0x04
  | .vand _ _ => 0x05
  | .vor _ _ => 0x06
  | .vxor _ _ => 0x07
  | .vshl _ _ => 0x08
  | .vshr _ _ => 0x09
  | .vmin _ _ => 0x0A
  | .vmax _ _ => 0x0B
  | .vabs _ _ => 0x0C
  | .vcmp _ _ => 0x0D
  | .vsel _ _ => 0x0E
  | .vfadd _ _ => 0x0F
  | .vfsub _ _ => 0x10
  | .vfmul _ _ => 0x11
  | .vfma _ _ => 0x12
  | .vfmin _ _ => 0x13
  | .vfmax _ _ => 0x14
  | .vfcmp _ _ => 0x15
  | .vfsgn _ _ => 0x16
  | .vfcvt _ _ => 0x17
  | .vfrce _ _ => 0x18
  | .vfrse _ _ => 0x19
  | .vshuf _ _ => 0x1A
  | .vbcast _ _ => 0x1B
  | .vslide _ _ => 0x1C
  | .vzip _ _ => 0x1D
  | .vred _ _ => 0x1E
  | .vscan _ _ => 0x1F
  | .vld _ _ => 0x20
  | .vst _ _ => 0x21
  | .vldt _ _ => 0x22
  | .vldx _ _ => 0x23
  | .vgath _ _ => 0x24
  | .vscat _ _ => 0x25
  | .vlde _ _ => 0x26
  | .vpack _ _ => 0x27
  | .vunpk _ _ => 0x28
  | .plog _ _ => 0x29
  | .pmov _ _ => 0x2A
  | .vpcnt _ _ => 0x2B
  | .vamo _ _ => 0x2C
  | .opa _ => 0x01
  | .opar _ => 0x02
  | .zclr _ => 0x03
  | .zmov _ => 0x04
  | .zld _ => 0x05
  | .zflush _ => 0x06
  | .rcall _ => 0x07
  | .txq _ => 0x08
  | .cpy _ _ => 0x01
  | .cpyt _ _ => 0x02
  | .rack _ _ => 0x03
  | .migr _ _ => 0x04
  | .redx _ _ => 0x05
  | .send _ _ => 0x06
  | .recv _ _ => 0x07
  | .kick _ _ => 0x08
  | .drain _ _ => 0x09
  | .ckpt _ _ => 0x0A
  | .pref _ _ => 0x0B
  | .cmpt _ => 0x01
  | .xalu _ => 0x02
  | _ => 0

/-- A slot word from its opcode and fields (Table 4.3). -/
def packWord (op : BitVec 6) (f : Fields) : SlotWord :=
  op ++ f.d ++ f.a ++ f.b ++ f.g ++ f.f

/-- The word of a slot-word row; nothing for the rows that are no slot word. -/
def encode (i : Instr) : Option SlotWord :=
  (Machine.slotFields i).map fun f => packWord (opcode i) f

/-- The header word w0 (Table 4.2). -/
structure Header where
  wait : BitVec 16
  cf : Bool
  mark : Bool
  rz : Bool
  lx : Bool
  reserved : Bool
  deriving DecidableEq, Repr

/-- Word `k` of a bundle: w0 lies at the lowest address (R66). -/
def bundleWord (b : Bundle) (k : Nat) : SlotWord := b.extractLsb' (32 * k) 32

/-- The header of a bundle (R67). `reserved` says that a bit of w0[12:4] or w0[2:0] is set (R82, HDR). -/
def headerOf (b : Bundle) : Header :=
  let w := bundleWord b 0
  ⟨w.extractLsb' 16 16, w.getLsbD 15, w.getLsbD 14, w.getLsbD 13, w.getLsbD 3, decide (w &&& 0x1FF7 ≠ 0)⟩

/-- The instruction words of a bundle with their slot indexes: w7 is the literal when LX is 1 (R73). -/
def slotWords (b : Bundle) : List (Nat × SlotWord) :=
  let n := if (headerOf b).lx then 6 else 7
  (List.range n).map fun k => (k + 1, bundleWord b (k + 1))

/-- A bundle from its eight words, w0 first. -/
def packBundle : List SlotWord → Bundle
  | [] => 0
  | w :: ws => w.setWidth 256 ||| (packBundle ws <<< 32)

/-- The slots tried for a word that comes without its slot (log 9): the first whose table lists the opcode. -/
def tableSlot (w : SlotWord) : Nat :=
  match [1, 2, 4, 5, 7].find? fun k => match decodeSlot k w with
    | .ok _ => true
    | .error _ => false with
  | some k => k
  | none => 1

/-- The instruction the decoder reads from the 32-bit word of an opcode-table row, in the first slot that lists its opcode. -/
def decodeTableWord (nbits w : Nat) : Option Instr :=
  if nbits = 32 then
    let v := BitVec.ofNat 32 w
    match decodeSlot (tableSlot v) v with
    | .ok i => some i
    | .error _ => none
  else none

end Sys2Proof
end

