-- ==== Sys2Proof/Machine/Store.lean ====
section
/-! DEFINITION. Sparse data by number: a list of pairs with strictly rising keys. Register files, memory and the tables of the package are held so. -/

namespace Sys2Proof.Machine

/-- A finite map from numbers, kept as a list whose keys rise strictly. -/
abbrev Store (α : Type) := List (Nat × α)

variable {α : Type}

/-- What key `k` holds, if anything. -/
def Store.find? : Store α → Nat → Option α
  | [], _ => none
  | (j, v) :: m, k => if j = k then some v else if k < j then none else Store.find? m k

/-- What key `k` holds, `d` where nothing is listed. -/
def Store.get (d : α) (m : Store α) (k : Nat) : α := (Store.find? m k).getD d

/-- `m` with `v` at key `k`. -/
def Store.put : Store α → Nat → α → Store α
  | [], k, v => [(k, v)]
  | (j, w) :: m, k, v =>
    if k < j then (k, v) :: (j, w) :: m
    else if k = j then (k, v) :: m
    else (j, w) :: Store.put m k v

/-- `m` with nothing at key `k`. -/
def Store.erase : Store α → Nat → Store α
  | [], _ => []
  | (j, w) :: m, k => if k < j then (j, w) :: m else if k = j then m else (j, w) :: Store.erase m k

/-- `m` with `v` at key `k`, where `d` is what an unlisted key reads as: writing `d` removes the entry, so that equal contents are equal lists. -/
def Store.set [DecidableEq α] (d : α) (m : Store α) (k : Nat) (v : α) : Store α :=
  if v = d then Store.erase m k else Store.put m k v

/-- `m` with the value at `k` replaced by its image; `d` where nothing is listed. -/
def Store.update (d : α) (m : Store α) (k : Nat) (f : α → α) : Store α :=
  Store.put m k (f (Store.get d m k))

/-- `m` with every value replaced by its image. -/
def Store.mapVals (f : Nat → α → α) (m : Store α) : Store α :=
  m.map fun (k, v) => (k, f k v)

/-- The entries whose key lies in `lo ≤ k < hi`. -/
def Store.range (m : Store α) (lo hi : Nat) : Store α :=
  m.filter fun (k, _) => decide (lo ≤ k) && decide (k < hi)

/-- The lowest key below `bound` that `m` does not list. -/
def Store.freeKey (m : Store α) : Nat → Nat → Option Nat
  | 0, _ => none
  | fuel + 1, k => if (Store.find? m k).isNone then some k else Store.freeKey m fuel (k + 1)

/-- One more than the greatest key listed. -/
def Store.nextKey (m : Store α) : Nat := m.foldl (fun n (k, _) => Nat.max n (k + 1)) 0

/-- The values of `n` keys from `k` on, `d` where nothing is listed. -/
def Store.dense (d : α) : Nat → Nat → Store α → List α
  | 0, _, _ => []
  | n + 1, k, [] => d :: Store.dense d n (k + 1) []
  | n + 1, k, (j, v) :: m => if k < j then d :: Store.dense d n (k + 1) ((j, v) :: m) else v :: Store.dense d n (k + 1) m

/-- The store whose keys from `k` on hold the values of a list, `d` unlisted. -/
def Store.sparse [DecidableEq α] (d : α) : Nat → List α → Store α
  | _, [] => []
  | k, v :: l => if v = d then Store.sparse d (k + 1) l else (k, v) :: Store.sparse d (k + 1) l

/-- The keys of `m` rise strictly from `lo`. -/
def Store.sortedFrom : Nat → Store α → Bool
  | _, [] => true
  | lo, (k, _) :: m => decide (lo ≤ k) && Store.sortedFrom (k + 1) m

/-- The canonical form of a store whose unlisted keys read as `d`: keys strictly rising, no entry equal to `d`. -/
def Store.wf [DecidableEq α] (d : α) (m : Store α) : Bool :=
  Store.sortedFrom 0 m && m.all fun (_, v) => decide (v ≠ d)

end Sys2Proof.Machine
end

