-- ==== Sys2Proof/Machine/Types.lean ====
section
/-! DEFINITION. The parts of the machine's state: a core with its three copies of the register state (R110), its segments (R107 to R115), its press (R207); the engines, homes, solera, scheduler, translation, links and lifetime data of the package. -/

namespace Sys2Proof.Machine

/-- Memory: bytes by location number (log 4), in the canonical form of `Store.wf 0`: an unlisted byte reads as 0. -/
abbrev Memory := List Host.Cell

/-- Where a pending write goes (R93, Table 15.8's record kinds). -/
inductive Dest where
  /-- An S code 0 to 59. -/
  | scalar (code : Nat)
  /-- A physical v register. -/
  | vector (phys : Nat)
  /-- A physical predicate. -/
  | pred (phys : Nat)
  /-- An e register. -/
  | scale (n : Nat)
  /-- A descriptor register. -/
  | desc (n : Nat)
  /-- A control register (Table 7.5). -/
  | control (n : Nat)
  /-- Nothing but STAT or WARN bits. -/
  | nothing
  deriving DecidableEq, Repr

/-- How the bytes of a load become the value (R159, R198). -/
inductive Extend where
  | zero
  /-- Sign extension of the low `bits` to 64. -/
  | scalar (bits : Nat)
  /-- Sign extension of a byte in every lane. -/
  | laneBytes
  /-- Column-major elements of width `w` from 64 groups of 4 bytes (R217). -/
  | transpose (w : Nat)
  deriving DecidableEq, Repr

/-- How a load reaches memory: as one access, lane by lane (VGATH), or outside the bank wheels (VLDE, Table 5.1). -/
inductive LoadForm where
  | plain | perLane | aside
  deriving DecidableEq, Repr

/-- What a load in flight still knows of its access: it lets a later store of another class replace bytes (R127) and says whether the data has arrived (R97, R98). -/
structure LoadInfo where
  /-- Locations read, each with the bit position of its byte in the raw value. -/
  bytes : List (Nat × Nat)
  cls : BitVec 2
  ext : Extend
  /-- A landing-buffer entry: LDT or VLDT. -/
  timed : Bool
  arrived : Bool
  /-- The first cycle in which data from the own barrel is there (R98, R41). -/
  readyAt : Nat
  /-- Engine operations whose writes an MA = 1 access waits for (R128): the value is read again at arrival. -/
  after : List Nat
  /-- Uncorrectable data was reached by a load that is not speculative. -/
  uncorrectable : Bool
  /-- A wait at the bank or a scrub holds it: the value is read when it ends (R98, R128). -/
  reread : Bool
  /-- LDX, VLDX: uncorrectable data becomes poison (R161). -/
  spec : Bool
  /-- The bundle that issued it. -/
  pc : Word
  space : Bool
  /-- Bytes that a value read again takes instead of memory's: what stood there before a store of the load's own or a later bundle (R127, R130), or the byte that such a store gave it (R127). -/
  kept : List (Nat × Byte)
  form : LoadForm
  /-- The lane of the uncorrectable data that a load of a per-lane form reaches (Table 15.7). -/
  badLane : Nat
  /-- What stood at its locations as its segment committed, which its value is read from where it waits longer: a read comes before its segment's commit (Table 6.2 cm, R139). -/
  seen : List (Nat × Byte)
  deriving DecidableEq, Repr

/-- A write pending in exposed latency (R93). `value` is 2048 bits wide for every destination; `mask` gates lanes, scales or predicate bits. -/
structure Pending where
  id : Nat
  vis : Nat
  bno : Nat
  slot : Nat
  dest : Dest
  value : Vec
  mask : Word
  poison : Bool
  tag : Option (BitVec 2)
  stat : BitVec 6
  warn : BitVec 7
  load : Option LoadInfo
  /-- The cycle from which a hold counts its latency: that of its issue, or of its context's return to a core (R27). -/
  since : Nat
  deriving DecidableEq, Repr

/-- One level of the loop unit (R100). -/
structure Loop where
  start : Word
  stop : Word
  stages : Nat
  esc : Nat
  active : Bool
  deriving DecidableEq, Repr

/-- A taken branch whose target has yet to issue: bundles left before it, and the branch's own address (R96, R163). -/
structure Redirect where
  target : Word
  left : Nat
  source : Word
  deriving DecidableEq, Repr

/-- A running OPAR: what the loop-unit state holds of it (R212). -/
structure OparRep where
  remaining : Nat
  next : Word
  tile : Nat
  high : Bool
  col : Nat
  fmt : BitVec 4
  addrReg : Nat
  /-- The literal of the OPAR's bundle. -/
  lit : BitVec 32
  deriving DecidableEq, Repr

/-- The resume record of R120. -/
structure ResumeRec where
  level : Nat
  stages : Nat
  r : Nat
  start : Word
  stop : Word
  deriving DecidableEq, Repr

/-- What an ungrafted RCALL pushes (R27, frame record of R263): a, p, lc, g12 to g15, tags, loop state, RRB, PROFILE, flags, return address and flag. -/
structure Frame where
  sc : Store Word
  poison : Word
  atag : BitVec 32
  p : Store Word
  g : Store Desc
  loops : List Loop
  vrb : BitVec 5
  prb : BitVec 3
  prof : BitVec 2
  body : Bool
  flags : BitVec 16
  ret : Word
  retSpace : Bool
  flagN : Nat
  brq : List Redirect
  /-- The routine called, for the traps of R35 and the inserted calls of R248. -/
  routine : Nat
  /-- An inserted compensating call (R248): the caller's q0 to q7, s24 to s31 and v40 to v47 are restored at its return (R178). -/
  inserted : Bool
  savedSc : Store Word
  savedV : Store Vec
  vpoison : Word
  /-- What of the caller goes on at the body's return: an inserted call's running OPAR (R212, R248), and the resume record of a level that drains (R120). -/
  savedOpar : Option OparRep
  savedRrec : Option ResumeRec
  /-- The recovery bundle due before the bundle that it goes on at (R162, R248). -/
  savedRecov : Option Word
  deriving DecidableEq, Repr

/-- A breakpoint comparator (Table 15.10). -/
structure Comparator where
  addr : Word
  ctl : Word
  value : Word
  hits : Word
  deriving DecidableEq, Repr

/-- The register state of R110, held in three copies. -/
structure Regs where
  /-- S codes 0 to 59: s, a, lc, q (Table 4.4). -/
  sc : Store Word
  /-- Bit c: the poison bit of S code c (R152). -/
  poison : Word
  /-- Bits 2k+1:2k: the alias-class tag of ak (R75). -/
  atag : BitVec 32
  /-- v0 to v47 by physical number (R101). -/
  v : Store Vec
  vpoison : Word
  e : Store Scales
  /-- p0 to p15 by physical number; p0 reads all ones and is never stored. -/
  p : Store Word
  g : Store Desc
  /-- f0 to f15 of the running code (R28). -/
  flags : BitVec 16
  stat : BitVec 6
  warn : BitVec 7
  seed : Word
  sridx : Word
  vrb : BitVec 5
  prb : BitVec 3
  goff : Bool
  body : Bool
  prof : BitVec 2
  loops : List Loop
  opar : Option OparRep
  frames : List Frame
  rz : Word
  pend : List Pending
  brq : List Redirect
  rrec : Option ResumeRec
  /-- The pending recovery bundle of a diverting CHK (R162). -/
  recov : Option Word
  pc : Word
  /-- True: the routine store; false: .text (Table 15.5). -/
  space : Bool
  bno : Nat
  /-- The last bundle issued (R163, R180). -/
  lastPc : Word
  lastSpace : Bool
  comps : List Comparator
  deriving DecidableEq, Repr

/-- The cells of one press position (Table 9.1). -/
structure Cell where
  main : BitVec 48
  w0 : BitVec 9
  w1 : BitVec 9
  w2 : BitVec 9
  k : BitVec 9
  cnt : BitVec 13
  /-- MAIN holds INT48 and not FA48: what R43 needs of a saved cell. -/
  int : Bool
  deriving DecidableEq, Repr

/-- A tile: its cells by 64i + j, PEND (R207), the dirty bit (R264) and the cells that are lost (R312). -/
structure Tile where
  cells : Store Cell
  pend : BitVec 6
  dirty : Bool
  lost : List Nat
  deriving DecidableEq, Repr

/-- A store in the cask (R111): its bytes in the order they enter co, and how many entries it occupies. -/
structure CaskEntry where
  bytes : List (Nat × Byte)
  cls : BitVec 2
  bno : Nat
  slot : Nat
  entries : Nat
  /-- Engine operations whose writes an MA = 1 store waits for at its bank (R128). -/
  after : List Nat
  /-- Once published: the first cycle in which memory may hold it, for its core's eyes aside (R132, R134). -/
  visAt : Nat
  /-- The context that issued it: a kill drops it wherever it waits (R268). -/
  ctx : Nat
  /-- A word of it could not be corrected: what it writes is poisoned (R310, R311). -/
  lost : Bool
  deriving DecidableEq, Repr

/-- An entry of the OPA queue (R112). A store to the core's own B-plane takes its place between them (R210). -/
inductive TileOp where
  /-- `pc` and `space` name the bundle that queued it (R116). -/
  | opa (tile : Nat) (fmt : Nat) (high : Bool) (col : Vec) (row : Nat) (pc : Word) (space : Bool)
  | zclr (all : Bool) (tile : Nat)
  | zld (tile row : Nat) (int : Bool) (v : Vec)
  | zflush (tile : Nat) (scales : Option Scales) (vals : Store Int)
  | store (e : CaskEntry)
  /-- An entry a word of which could not be corrected, and the bundle at which its core consumes it (R310, R311, log 73). -/
  | lost (pc : Word) (space : Bool)
  deriving DecidableEq, Repr

/-- A strike region's check that a segment awaits (R108 condition 3): CMPT, residue or witness. -/
inductive CheckKind where
  | cmpt
  | residue
  | witness
  | atomicPair
  deriving DecidableEq, Repr

/-- A check awaited: when its outcome is known, the bundle it belongs to, and whether it fails. -/
structure Check where
  kind : CheckKind
  due : Nat
  pc : Word
  space : Bool
  fails : Bool
  /-- The histogram entries that a failure counts in (Table 18.3). -/
  hist : List Nat
  deriving DecidableEq, Repr

/-- The atomic operations (Table 7.4), arrivals (R145) and timed waits (R147) that a home performs. -/
inductive AtomOp where
  | add | min | max | and | or | xor | exch | cas | minu | maxu | fadd
  | arrive
  deriving DecidableEq, Repr

/-- One request of a source: its tag (R143), the core that waits for its value, and the value operation and lane that the value goes to. -/
structure AtomPart where
  /-- The agent whose number it carries: the core, or a native unit. -/
  src : Nat
  core : Nat
  seq : Nat
  vid : Nat
  lane : Nat
  operand : Word
  deriving DecidableEq, Repr

/-- A request on its way to its home (R140 to R143): the tags and operands of the requests that it holds, more than one where a router has merged (R141). -/
structure AtomReq where
  parts : List AtomPart
  op : AtomOp
  loc : Nat
  width : Nat
  bf16 : Bool
  cmp : Word
  /-- Operations whose writes an MA = 1 access waits for (R128). -/
  after : List Nat
  born : Nat
  /-- The home has applied it; it is kept for a replay (R143). -/
  applied : Bool
  deriving DecidableEq, Repr

/-- What a value-returning instruction recorded at issue (R113, R153). -/
inductive ValueOp where
  | amo (dest : Nat) (op : AtomOp) (loc width : Nat) (bf16 : Bool) (operand cmp : Word)
  /-- For each active lane its number, its location, its index and its operand. -/
  | vamo (dest : Nat) (op : AtomOp) (base : Word) (lanes : List (Nat × Nat × Word × Word))
  | barr (dest loc : Nat)
  | waitb (dest loc : Nat) (phase : BitVec 16) (timeout : Nat)
  | actb (dest loc : Nat)
  | acte (dest : Nat) (act : Nat)
  | acts (dest : Nat) (act : Nat)
  deriving DecidableEq, Repr

/-- A value operation with the slots that hold it: copies in one bundle share a single operation (R113). -/
structure ValueReq where
  /-- Its number, given at commit. -/
  vid : Nat
  op : ValueOp
  slot : Nat
  /-- Another destination that receives the same value: the other of two copies. -/
  twin : Option Nat
  /-- Operations whose writes an MA = 1 access waits for (R128). -/
  after : List Nat
  /-- The alias class of its accesses (R75); 0 for those that only object homes see. -/
  cls : BitVec 2
  deriving DecidableEq, Repr

/-- The C-slot commands (Table 9.6). -/
inductive CmdKind where
  | cpy | cpyt | rack | migr | redx | send | recv | drain | ckpt | pref
  deriving DecidableEq, Repr

/-- A command as captured at issue (R219). -/
structure Command where
  kind : CmdKind
  desc : Desc
  b : Word
  f : BitVec 4
  /-- The flag it is bound to: routine depth and number (R28). -/
  flag : Option (Nat × Nat)
  slot : Nat
  pc : Word
  space : Bool
  bno : Nat
  deriving DecidableEq, Repr

/-- A grafted call as captured at issue (R27, R29). -/
structure GraftCall where
  routine : Nat
  q : List Word
  /-- The registers with which its body would be entered at this RCALL. -/
  entry : Regs
  /-- Routine depth and number; none for an inserted call (R248). -/
  flag : Option (Nat × Nat)
  pc : Word
  space : Bool
  /-- The number of its bundle. -/
  bno : Nat
  deriving DecidableEq, Repr

/-- What leaves the core at a segment's commit besides stores and tile writes, in issue order (R109). -/
inductive Effect where
  | push (idx : Nat) (tag : BitVec 32) (act : Nat) (params : List Word)
  | command (c : Command)
  | graft (g : GraftCall)
  | value (v : ValueReq)
  | kick (q : Nat)
  | brel (mask : BitVec 32)
  | acta (act : Nat)
  | yield (v : Nat)
  | halt
  /-- `pc` and `space` name its bundle, for its traps (R262). -/
  | sret (pc : Word) (space : Bool)
  deriving DecidableEq, Repr

/-- A segment (R107): what it holds back until it commits. -/
structure Segment where
  pc : Word
  space : Bool
  stores : List CaskEntry
  /-- Tile operations with the numbers of their bundles. -/
  opas : List (Nat × TileOp)
  effects : List Effect
  checks : List Check
  /-- The cycle of its closing mark (R108). -/
  closedAt : Nat
  /-- Tun bank groups it has read or written: cluster and group (R116). -/
  tun : List (Nat × Nat)
  /-- The bundle that consumed uncorrectable data (R108 condition 4). -/
  bad : Option (Word × Bool)
  deriving DecidableEq, Repr

/-- A trap record: TCAUSE, TPC and TINFO (Tables 15.4 to 15.7). -/
structure TrapRec where
  cause : Nat
  sub : Nat
  pc : Word
  space : Bool
  info : Word
  deriving DecidableEq, Repr

/-- What stands in a core's way or what it is doing (R122, R179, R180, R261). -/
inductive RunState where
  /-- No task. -/
  | idle
  /-- A task is delivered; its first bundle waits for its banks (R16). -/
  | waiting
  | running
  /-- HALT or a trap at supervisor level stopped issue (R179, R261). -/
  | halted
  | stopped
  /-- The task reached its end and waits for what it released (R180). -/
  | ending
  | ended
  /-- The context left the core (R265). -/
  | saved
  deriving DecidableEq, Repr

/-- A pre-emption requested (R119) and its KIND at the save. -/
inductive Preempt where
  | none
  | soft (kind : Nat) (since : Nat)
  | hard (kind : Nat)
  deriving DecidableEq, Repr

/-- A grafted call in flight (R29, R35, R36). -/
structure Graft where
  call : GraftCall
  /-- The entry's grade is step: known once a unit has accepted the call. -/
  step : Bool
  started : Bool
  /-- The cycle from which D counts for the unit's next body mark: its start, its last final mark, the last strike in its region (R32, R35). -/
  since : Nat
  /-- The routine's registers at its last final body mark; at first those of its entry (R32). -/
  body : Regs
  /-- It was saved at a body mark and continues there (R265). -/
  resumed : Bool
  /-- Its fault has been reported (R35). -/
  faulted : Bool
  /-- It stands at a final body mark for a save of its context (R35, R265). -/
  stopped : Bool
  deriving DecidableEq, Repr

/-- A call inserted at the core's next mark (R36, R178, R248, R265): the compensating run of a solera record, or the body of a grafted call that runs ungrafted and sets the call's flag. -/
structure Inserted where
  routine : Nat
  q : List Word
  seq : Option Nat
  flag : Option (Nat × Nat)
  /-- The registers of the routine at the point where its body goes on; none for one that begins. -/
  state : Option Regs
  /-- Its graft has met a fault: it runs as its body (R36). -/
  body : Bool
  deriving DecidableEq, Repr

/-- What a context that leaves its core keeps of the core's registers outside the copies (R257, R265). -/
structure CtxRegs where
  core : Nat
  bown : BitVec 32
  ctx : BitVec 12
  lcore : Word
  image : Nat
  queue : Nat
  save : Word
  svec : Word
  bke : Bool
  sstep : Bool
  hzd : Bool
  stated : Nat
  yields : Nat
  /-- Issue cycles of the stated run, and those at the last save for an overrun of it (R284). -/
  issued : Nat
  overAt : Nat
  /-- The task's plan banks, where it still waited for them (R16), and the cycle of its delivery. -/
  waits : Option (BitVec 32)
  delivered : Nat
  deriving DecidableEq, Repr

/-- A core. -/
structure Core where
  work : Regs
  mark : Regs
  com : Regs
  run : RunState
  -- registers outside the copies
  bown : BitVec 32
  tcause : Word
  tpc : Word
  tinfo : Word
  sup : Bool
  bke : Bool
  sstep : Bool
  hzd : Bool
  svec : Word
  save : Word
  /-- The save areas on this core of the contexts that CTXID has named here (R257). -/
  areas : Store Word
  ctx : BitVec 12
  lcore : Word
  image : Nat
  queue : Nat
  -- segments
  seg : Segment
  pending : Option Segment
  tiles : Store Tile
  /-- Committed tile operations waiting to be applied, one a cycle, each with the number of its bundle (R112). -/
  opaq : List (Nat × TileOp)
  /-- Published stores that are not yet performed: they wait at a bank for an engine write or a scrub, or are on their way (R128, R132, R310). -/
  heldStores : List CaskEntry
  /-- The first cycle in which the press may apply its next entry (R112). -/
  pressAt : Nat
  applied : Nat
  reads : Nat
  standIn : Option Nat
  -- checks and rollbacks
  failRec : Option (Word × Bool)
  badRec : Option (Word × Bool)
  rolls : Nat
  /-- The cycle after the core's last commit: a report that comes in that cycle is acted on before no commit of it (R309). -/
  comAt : Nat
  /-- Rolled back: the committed copy is checked before issue restarts (R116, R312). -/
  restarting : Bool
  holdUntil : Nat
  -- traps and reports
  sync : Option TrapRec
  async : List TrapRec
  preempt : Preempt
  saveKind : Option Nat
  bskip : Bool
  /-- A breakpoint stops the core once it can be saved: the comparators as they count its match (R269). -/
  breakNow : Option (List Comparator)
  -- values and calls
  value : List ValueReq
  /-- Those of the code that an inserted call has interrupted (R248). -/
  heldValue : List ValueReq
  /-- Values that have come back: operation, lane, value, STAT bits. -/
  valueBack : List (Nat × Nat × Word × BitVec 6)
  grafts : Store Graft
  inserts : List Inserted
  /-- The inserted call that has been taken and is not complete (R178, R248). -/
  comp : Option Inserted
  reserved : Nat
  -- the bundle being issued
  lx : Bool
  lit : BitVec 32
  srUsed : Nat
  /-- An implicit mark stands after the bundle (R107). -/
  markAfter : Bool
  /-- Where issue continues after a LOOP with trip count 0 (R100). -/
  skipTo : Option Word
  /-- A routine that the bundle calls ungrafted, with its flag: its body is entered as the bundle ends (R27). -/
  enter : Option (Nat × Nat)
  /-- q0 to q7 as an RCALL found them before its hold let pending writes land (R27). -/
  callQ : Option (List Word)
  /-- The cycle in which the next repetition of an OPAR is due (R212). -/
  repAt : Nat
  /-- The recovery bundle of the bundle about to issue has issued, and the marks of both stand before it (R162). -/
  merged : Bool
  /-- The last cycle in which completions set flags of the running code, those flags, and those of them that were clear before (R68, R99). -/
  flagAt : Nat
  flagHit : BitVec 16
  flagNew : BitVec 16
  turnAt : Nat
  /-- Accesses of this bundle's loads whose results are discarded: slot, class, locations (R121). -/
  dropped : List (Nat × BitVec 2 × List Nat)
  issued : Nat
  /-- The issue cycles of a stated run that the core has overrun, until its save records them (R284). -/
  overran : Option Nat
  /-- The issue cycles of the stated run at its last save for an overrun, 0 before one: the core overruns again once it has issued more (R284). -/
  overAt : Nat
  stated : Nat
  /-- YIELDs committed since task entry (R282). -/
  yields : Nat
  /-- Bank releases that wait for engine writes: banks and operations (R165). -/
  brels : List (BitVec 32 × List Nat)
  /-- Those of contexts that have left the core: nothing runs on their banks before (R106, R165). -/
  lateBrels : List (BitVec 32 × List Nat)
  -- parking and saves
  /-- Pinned segment entries as loaded at task entry or resumption (R289). -/
  segs : Store (BitVec 256)
  /-- The parked context: its number and the location of its save area (R267). -/
  parked : Option (Nat × Nat)
  /-- The context whose save has just made room for the parked one. -/
  outgoing : Option (Nat × Nat)
  parkAt : Nat
  prevCtx : Option Nat
  bankCtx : Store Nat
  nextBanks : BitVec 32
  /-- The cycle in which the task was delivered: what was released before is not on its behalf (R106). -/
  delivered : Nat
  deriving DecidableEq, Repr

/-- A parameter of a routine: role, element format and footprint (R23). -/
structure Param where
  role : Nat
  fmt : Nat
  scale : Nat
  const : Nat
  deriving DecidableEq, Repr

/-- The native units that the graft table names (Table 2.6). -/
inductive NativeUnit where
  | dot | press | residue | reduction | special | readPath | copyEngine
  deriving DecidableEq, Repr

/-- An entry of the graft ROM (Table 2.6) without its digest and profile, by which it is found (R31). -/
structure GraftEntry where
  unit : NativeUnit
  stepGrade : Bool
  /-- The predicates of Table 2.6: the count's q register, its multiple, least and greatest; the q registers that need 256-byte alignment; those in the own barrel and the own B-plane. -/
  countReg : Nat
  multiple : Nat
  least : Nat
  most : Nat
  aligned : List Nat
  barrel : List Nat
  bplane : List Nat
  deriving DecidableEq, Repr

/-- A routine header (Table 2.2): its NAME is informative only and its reserved bytes are zero. -/
structure RoutineHead where
  /-- Bytes 32 to 39. -/
  sig : List Byte
  grade : Nat
  replay : Bool
  prof : BitVec 2
  len : Nat
  /-- Byte offset of the body within .routines. -/
  off : Nat
  /-- Bytes 56 to 71. -/
  digest : List Byte
  /-- The eight footprint entries. -/
  foot : List (BitVec 32)
  deriving DecidableEq, Repr

/-- An index-table entry of a routine (R22, R24): its header, its .policy byte, the place of its body in the routine store in bundles. -/
structure Routine where
  head : RoutineHead
  policy : Nat
  offset : Nat
  deriving DecidableEq, Repr

/-- The sections of a Cifold object (Table 2.1). -/
inductive SectionName where
  | text | routines | plan | segs | profile | policy | data
  deriving DecidableEq, Repr

/-- Why the loader rejects a binary (R21): a required section is missing, a section appears twice, one holds a reserved value. -/
inductive LoadError where
  | missing | twice | reserved
  deriving DecidableEq, Repr

/-- A loaded kernel image (R277): what its descriptor names. -/
structure Image where
  ctx : Nat
  kimg : Word
  /-- .text by bundle number, and its length in bundles. -/
  text : Store Bundle
  textLen : Nat
  entry : Nat
  stop : Nat
  /-- The routine store by bundle number (R22). -/
  store : Store Bundle
  routines : List Routine
  banks : BitVec 32
  prof : BitVec 2
  /-- REWRITE of the policy word: the loader may reschedule .text (R24, R42). -/
  rewrite : Bool
  deriving DecidableEq, Repr

/-- What a pending record of a save area has no place for: the alias-class tag written with an address register (R75, R93), the slot of its instruction (R217), and its place in the order of landing, where that is not the order of the records (R81, R263). -/
structure RecordNote where
  tag : Option (BitVec 2)
  slot : Nat
  rank : Nat
  deriving DecidableEq, Repr

/-- What the model keeps beside a save area, which has no place for it: operands of a waiting WAITB or ACTE (R153), the address register of a running OPAR (R212), the frames with what an inserted call restores (R178). -/
structure SaveExtra where
  values : List ValueReq
  heldValues : List ValueReq
  back : List (Nat × Nat × Word × BitVec 6)
  oparReg : Nat
  oparLit : BitVec 32
  frames : List Frame
  /-- Reports of the context that no core has delivered (R259, R262). -/
  reports : List TrapRec
  /-- The inserted call that runs on the core (R178). -/
  comp : Option Inserted
  /-- For each graft record the routine depth of its flag, none for a compensating run, and the routine's registers, of which the record holds a part (R263). -/
  bodies : List (Option Nat × Regs)
  /-- What the pending records have no place for (Table 15.8), record by record. -/
  recs : List RecordNote
  /-- Of each tile the cells that are lost (R312) and those whose MAIN holds INT48 (R43). -/
  cells : Store (List Nat × List Nat)
  /-- The registers of a context that has left its core; nothing for a trap's save. -/
  left : Option CtxRegs
  deriving DecidableEq, Repr

/-- Stages of a released engine operation. -/
inductive OpStage where
  | running
  /-- A SEND or a RECV that waits for its match, a CKPT whose gate is shut (R230, R233). -/
  | waiting
  /-- A translation fault is offered to system software (R301). -/
  | held
  deriving DecidableEq, Repr

/-- A released engine operation (R135, R220). -/
structure EngineOp where
  cmd : Command
  core : Nat
  ctx : Nat
  stage : OpStage
  released : Nat
  /-- MIGR: the pages that have arrived (R303). -/
  arrived : List Nat
  /-- The save area of its context, once the context has left the core: its completion goes to the FLAGS word there (R224). -/
  savedAt : Option Nat
  /-- REDX: this rank's result, once the reduction is formed (R229). A SEND whose RECV has acknowledged: the empty list. -/
  result : Option (List Nat)
  /-- A SEND's or RECV's match, 0 for one of another chip (R230). -/
  mate : Option Nat
  /-- A CPYT that its release has found faulting: the row before which it ends, and the code (R222, R226). An operation whose translation fault system software has declined: the code it ends with, and of a CPYT the row (R148, R302). -/
  limit : Option (Nat × Nat)
  /-- SEND to another chip: the bytes that packets have taken; REDX: its elements that they have. -/
  sent : Nat
  /-- REDX of a group with ranks on other chips: its own elements, once read for a packet (R313, R331). -/
  contrib : Option (List Nat)
  /-- The core that released it and the number of that core's first bundle whose stores were not published then (R132). -/
  origin : Nat × Nat
  /-- It was released at supervisor level: its global VA resolves through the supervisor's segment table, and no fault of it is offered to system software (R256, R302). -/
  sup : Bool
  deriving DecidableEq, Repr

/-- The states of an activity (Table 7.7). -/
inductive ActState where
  | open | ending | abandoning | ended | abandoned | failed
  deriving DecidableEq, Repr

/-- What an arrival or a fault report does to a completion object (R145, R148). -/
inductive ObjUpdate where
  | arrive
  | fault (code : Nat)
  | faultRow (code row : Nat)
  deriving DecidableEq, Repr

/-- An update of an object whose row waits for its scrub (R310), and the context whose request it is (R268). -/
structure HeldUpdate where
  agent : Nat
  loc : Nat
  upd : ObjUpdate
  ctx : Option Nat
  deriving DecidableEq, Repr

/-- An activity (R175). -/
structure Activity where
  state : ActState
  ctx : Nat
  gate : Nat
  phase : BitVec 16
  /-- The core that causes its abandonment: of ACTE or ACTA (R178); at the abandonment, the number of that core's first bundle not committed (R138). -/
  cause : Nat
  before : Nat
  /-- The merged abandonment that it failed with: a number shared by its activities (R178). -/
  merged : Nat
  /-- How many activities failed with that number (R271). -/
  mates : Nat
  /-- A poisoned gate has been acted on. -/
  poisonSeen : Bool
  deriving DecidableEq, Repr

/-- A solera record (Table 7.9). -/
structure SolRec where
  seq : Nat
  act : Nat
  done : Bool
  running : Bool
  core : Nat
  routine : Nat
  tag : BitVec 32
  params : List Word
  /-- Its place among the 65,536 of the solera reserves (log 74). -/
  slot : Nat
  deriving DecidableEq, Repr

/-- A timed wait in progress at a home (R147). -/
structure TimedWait where
  core : Nat
  loc : Nat
  phase : BitVec 16
  deadline : Nat
  /-- The number of its value operation. -/
  vid : Nat
  /-- Its tag: the agent that sent it and its sequence number (R143). -/
  agent : Nat
  seq : Nat
  deriving DecidableEq, Repr

/-- A queue descriptor (Table 16.1). -/
structure Queue where
  conf : QueueConf
  head : BitVec 32
  pass : BitVec 64
  running : Bool
  candidates : Nat
  disabled : Bool
  deriving DecidableEq, Repr

/-- A task in progress (R279 to R281). -/
structure Task where
  queue : Nat
  cores : List Nat
  ended : List Nat
  saved : List Nat
  ctx : Nat
  cva : Word
  user : Word
  index : Nat
  noNotify : Bool
  /-- Its cores are asked to leave for a decision: none of them comes back before it (R282, R284). -/
  leaving : Bool
  /-- The number of its last leading yield as it left its cores (R282). -/
  yields : Nat
  deriving DecidableEq, Repr

/-- An arbitration group (R273, R282). -/
structure Group where
  clusters : List Nat
  slice : Nat
  hpe : Nat
  r : Nat
  nextRun : Store Nat
  running : Option Nat
  lastDecision : Nat
  runnable : List Nat
  saved : List Nat
  /-- The queue chosen while the running placement is still being saved. -/
  chosen : Option Nat
  /-- The number of the last YIELD commit that led a decision. -/
  yields : Nat
  /-- A decision is due: the run that the leading yield stated, 0 after an overrun (R282, R284). -/
  asked : Option Nat
  /-- The core of the leading yield. -/
  lead : Nat
  deriving DecidableEq, Repr

/-- The decisions a journal records (R285). -/
inductive Decision where
  | bit (q : Nat)
  | head (q : Nat)
  | pass (q : Nat)
  | launched (q : Nat)
  | refusedRecord (q : Nat)
  | started (q : Nat)
  | savedPlacement (q : Nat)
  | completed (q : Nat)
  | command (n : Nat)
  deriving DecidableEq, Repr

/-- The scheduler cores of a die (R285, R286). -/
structure Sched where
  journal : List Decision
  takeover : Bool
  standbyReady : Bool
  mailbox : List Instr
  /-- The queues whose tasks have ended, each with the status that its completion reports (R268, R281, R286). -/
  ends : List (Nat × Nat)
  reports : Nat
  deriving DecidableEq, Repr

/-- A completion entry that waits for its place in a ring: USER, record index, status, the vector raised after it, the rows that its bytes come from (R281, R313). -/
structure RingEntry where
  user : Word
  index : Nat
  status : Nat
  vec : Nat
  region : Region
  deriving DecidableEq, Repr

/-- A completion ring of a function (R281, R326). -/
structure Ring where
  base : Word
  log2 : Nat
  /-- CRTAIL, which the device writes as an entry leaves. -/
  tail : Nat
  head : Nat
  /-- The places given to entries that have been formed, those in egress quarantine included. -/
  taken : Nat
  waiting : List RingEntry
  interrupts : Nat
  doorbellErrors : Nat
  deriving DecidableEq, Repr

/-- A completion ring of a function, not set up. -/
def Ring.none : Ring := ⟨0, 0, 0, 0, 0, [], 0, 0⟩

/-- A cached leaf translation (R295). -/
structure TlbEntry where
  ctx : Nat
  va : Nat
  size : Nat
  pa : Nat
  r : Bool
  w : Bool
  deriving DecidableEq, Repr

/-- A cached partial walk (R295): the table of a level that the walk of an address of context `ctx` reaches. -/
structure WalkEntry where
  ctx : Nat
  va : Nat
  level : Nat
  table : Nat
  deriving DecidableEq, Repr

/-- A fault-ring entry (Table 17.8), with the operations that wait for its answer and the CPYT row in which each met the fault (R301). -/
structure FaultEntry where
  va : Nat
  ctx : Nat
  access : Nat
  permission : Bool
  core : Nat
  ops : List (Nat × Nat)
  since : Nat
  deriving DecidableEq, Repr

/-- A page that a MIGR moves (R303): its PTE's location and value with MIG set, its frame, and the target frame once the pool has given one. -/
structure PageMove where
  op : Nat
  core : Nat
  ctx : Nat
  va : Nat
  size : Nat
  pte : Nat
  word : Nat
  source : Nat
  target : Option Nat
  /-- The tick in which the page has to arrive, 0 for none (R228). -/
  deadline : Nat
  /-- Its PTE names the new frame and its translations are dropped: what remains is its arrival. -/
  moved : Bool
  deriving DecidableEq, Repr

/-- A shootdown command (Table 17.5). -/
structure Shootdown where
  kind : Nat
  ctx : Nat
  va : Nat
  len : Nat
  cva : Word
  deriving DecidableEq, Repr

/-- What a packet was read for (R230, R306, R313): a SEND to another chip from a byte of its data on, a rank's contribution to other chips from one of its elements on, a foreign agent's read of a range, a completion entry with its vector and its host address (R281), bytes that are kept where they came from. -/
inductive PacketSource where
  | send (op off : Nat)
  | redx (op off : Nat)
  | foreign (pa len : Nat)
  | entry (fn vec : Nat) (addr : Word)
  | kept
  deriving DecidableEq, Repr

/-- An endpoint: a device link, or a host port from 24 on (R328, R329, Table 18.2). -/
structure Link where
  up : Bool
  rx : Nat
  tx : Nat
  replays : Nat
  /-- The replay buffer: the flits sent that the peer has not acknowledged, with what they were sent for. -/
  unacked : List (Nat × PacketSource × List Byte)
  /-- How often the oldest of them has been replayed. -/
  resent : Nat
  deriving DecidableEq, Repr

/-- An entry of a function's MSI-X table with its pending bit (Table 19.2, log 88). -/
structure MsixEntry where
  addr : Word
  data : BitVec 32
  masked : Bool
  pending : Bool
  deriving DecidableEq, Repr

/-- A reset entry is masked, as PCI has it (PRESUMED, log 88). -/
def MsixEntry.reset : MsixEntry := ⟨0, 0, true, false⟩


/-- A packet in egress quarantine (R313). -/
structure Packet where
  source : PacketSource
  readAt : Nat
  regions : List Region
  poisoned : Bool
  bytes : List Byte
  deriving DecidableEq, Repr

/-- What has come of a contribution of another chip (R229, R331). -/
structure Contribution where
  rank : Nat
  m : Nat
  f : BitVec 4
  total : Nat
  elems : List Nat
  deriving DecidableEq, Repr

/-- A reduction group and the contributions of the ranks (R229, R331). -/
structure RedGroup where
  ranks : List Nat
  pending : List (Nat × Nat)
  /-- The number of the reduction at the head. -/
  number : Nat
  /-- A link has failed with a flit of that reduction: every rank ends with 0x07 (R329). -/
  failed : Bool
  incoming : List Contribution
  deriving DecidableEq, Repr

/-- A channel (R230, R331). -/
structure Channel where
  sender : Nat
  receiver : Nat
  sends : List Nat
  recvs : List Nat
  /-- The cycle in which the end on another chip is asked next (log 18). -/
  askAt : Nat
  /-- The bytes that flits have brought for the RECVs here (R328). -/
  inbox : List Byte
  deriving DecidableEq, Repr

/-- A channel that is not configured. -/
def Channel.none : Channel := ⟨0, 0, [], [], 0, []⟩

/-- A check failure whose count is deferred by D cycles (R319). -/
structure Deferred where
  due : Nat
  at_ : Nat
  core : Nat
  entries : List Nat
  strike : Bool
  deriving DecidableEq, Repr

/-- Lifetime data of a die (Tables 18.4 to 18.6). -/
structure Lifetime where
  epoch : Nat
  writes : Nat
  wepoch : Nat
  wlife : Nat
  counters : Store Nat
  /-- Histogram entries by 1024·core + offset, and 2^20 + unit for native units. -/
  hist : Store (BitVec 32)
  standIn : Store Nat
  retired : List Nat
  mappedOut : List Nat
  /-- What non-volatile storage last received, and the second copy of each record (R320). -/
  nvHist : Store (BitVec 32)
  nvCounters : Store Nat
  nvHist2 : Store (BitVec 32)
  nvCounters2 : Store Nat
  /-- The cycle in which the epoch ends (R320). -/
  ends : Nat
  /-- Permanent stand-ins, 1 + column by core of the die (R317, R322). -/
  permanent : Store Nat
  deriving DecidableEq, Repr

/-- The bring-up stages (R333). -/
inductive Stage where
  | rom | trustedBase | service | ready
  /-- The ROM stage has failed (Table 19.4). -/
  | stopped
  deriving DecidableEq, Repr

end Sys2Proof.Machine
end

