-- ==== Sys2Proof/Machine/State.lean ====
section
/-! DEFINITION. The state of the package and its value after cold reset. -/

namespace Sys2Proof.Machine

/-- Why a step ends the run. No meaning of the opcode table ends so: every trap the spec describes is taken (R259) and every other step has an effect. -/
inductive Fault where
  /-- Raised by no instruction: the address of an access is no location of the package. Safe. -/
  | noLocation (addr : Nat)
  deriving DecidableEq, Repr

/-- Why an instruction is turned away. -/
inductive Refusal where
  /-- Raised by an arm of `exec` that has no meaning yet. Safe. -/
  | notModelled (mnemonic : String)
  deriving DecidableEq, Repr

/-- What the package tells the outside (log 1). -/
inductive Out where
  /-- A completion entry written to host memory, and a vector's message sent (R281, R326). -/
  | completionEntry (fn : Nat) (addr : Word) (bytes : List Byte)
  | interrupt (fn vec : Nat) (addr : Word) (data : BitVec 32)
  /-- A core stopped by a supervisor-level trap or a lost committed copy reports (R261, R312). -/
  | coreStopped (p : Nat)
  /-- The service event of R309. -/
  | rollbackService (p : Nat)
  | queueFault (q : Nat)
  | commandRefused (act : Nat)
  | killDone (ctx : Nat)
  /-- A service command is acknowledged by a die's active scheduler core, after its journal entry (R287). -/
  | acknowledged (die : Nat) (i : Instr)
  | packet (endpoint : Nat) (bytes : List Byte)
  | replayRequest (link seq : Nat)
  /-- The next flit expected, told to the peer as one is applied; a flit of the replay buffer sent again (R328). -/
  | flitAck (link next : Nat)
  | flitAgain (link seq : Nat) (bytes : List Byte)
  /-- A bring-up stage has failed: host port 0 presents a recovery function only, or service firmware reports it (Table 19.4). -/
  | stageFailed (stage : Nat)
  | foreignData (port : Nat) (bytes : List Byte)
  | report (bytes : List Byte)
  /-- The public key and its certificate chain (R334). -/
  | identity (key chain : List Byte)
  /-- The parts of a die's lifetime region that are not zero, by offset (Table 18.4). -/
  | lifetime (die : Nat) (blocks : List (Nat × List Byte))
  | counters (die : Nat) (block : Store Word)
  deriving DecidableEq, Repr

/-- The state of an OX-T2640 package. -/
structure State where
  -- time (R4, R330)
  cyc : Word
  gstep : Word
  /-- The cycle in which the current tick ends (R330). -/
  tickEnd : Nat
  -- memory (R123, R288, R310, R338)
  mem : Memory
  poisoned : List Nat
  scrubbing : List Region
  -- the cores, by physical number; an unlisted core is `Core.reset`
  cores : Store Core
  /-- The core whose bundle is being issued: what a slot-word row acts on (log 1). -/
  cur : Nat
  images : Store Image
  -- queues and the scheduler (R272 to R287)
  kicks : BitVec 4096
  queues : Store Queue
  groups : Store Group
  tasks : Store Task
  scheds : Store Sched
  rings : Store Ring
  /-- The MSI-X tables, by 64·function + vector (Table 19.2). -/
  msix : Store MsixEntry
  dead : List Nat
  /-- SVEC, and the bits 2:0 of MODE, that system software has set for a context (Table 1.5). -/
  svecs : Store Word
  modes : Store (BitVec 3)
  /-- The context that a queue's tasks run in, where system software has named it (R278, log 82). -/
  queueCtx : Store Nat
  /-- What stands beside the save areas, by location of the area (log 7). -/
  extras : Store SaveExtra
  -- the solera (R175 to R178)
  acts : Store Activity
  records : List SolRec
  nextSeq : Nat
  /-- Numbers of merged abandonments that have failed (R271). -/
  nextMerge : Nat
  /-- Reports of contexts that no core runs: context and record (R178). -/
  heldReports : List (Nat × TrapRec)
  -- engines (R218 to R234)
  ops : Store EngineOp
  nextOp : Nat
  redGroups : Store RedGroup
  channels : Store Channel
  -- homes (R140 to R147)
  reqs : Store AtomReq
  nextReq : Nat
  nextVal : Nat
  srcSeq : Store Nat
  /-- The windows of applied tags: home, source, sequence number, value, STAT bits (R143). -/
  window : List (Nat × Nat × Nat × Word × BitVec 6)
  waits : List TimedWait
  /-- Arrivals and fault reports whose object waits for its scrub (R310). -/
  heldArrivals : List HeldUpdate
  /-- Accesses of agents outside the package and doorbell writes that wait for a row's scrub, in their order (R310). -/
  heldInputs : List Instr
  -- translation (R288 to R307)
  ctbase : Word
  supSegs : Store (BitVec 256)
  engSegs : Store (Store (BitVec 256))
  /-- ROOT of a context as the engines hold it (R289). -/
  engRoots : Store Nat
  tlb : List TlbEntry
  /-- Cached partial walks (R295). -/
  walks : List WalkEntry
  shootdowns : List Shootdown
  /-- The journal region of a die, which system software reserves in its cellar: its offset there (R285, log 71). -/
  regions : Store Nat
  /-- The place after the last command taken from a die's shootdown ring (R296). -/
  ringHeads : Store Nat
  faults : Store FaultEntry
  fto : Store Nat
  /-- The frame pools, by 3·tier + page size (R303). -/
  pools : Store (List Nat)
  moves : List PageMove
  zeroBlocks : List Nat
  cxlSize : Nat
  /-- Bytes of each tier device, by CXL port and device behind it (R325). -/
  tiers : List (List Nat)
  -- links and egress (R313, R314, R328 to R331)
  links : Store Link
  quarantine : Store (List Packet)
  /-- One cycle more than that of the last packet's leaving (R314). -/
  leftAt : Nat
  -- lifetime data and counters (R319 to R322, R335)
  deferred : List Deferred
  life : Store Lifetime
  counters : Store (Store Word)
  -- bring-up, ports and power (R324 to R327, R333, R336)
  stage : Stage
  /-- The stages whose checks fail (Table 19.4), and whether the management port takes service commands (R335). -/
  failing : List Nat
  mailboxOpen : Bool
  /-- The chip's number within its step domain, 0 outside every one (R143, R330). -/
  chip : BitVec 12
  /-- Whether the chip has joined a step domain (R330). -/
  domain : Bool
  hostmask : BitVec 4
  hostPorts : List Nat
  /-- The tier devices that failed after bring-up, as port and device (R325). -/
  failedDevices : List (Nat × Nat)
  parts : List PartConf
  m0 : List Byte
  m1 : List Byte
  m2 : List Byte
  pcap : Nat
  stretch : Store Nat
  -- the model's own (log 1, log 6)
  agenda : List Instr
  free : Nat
  outbox : List Out
  deriving DecidableEq, Repr

/-- A level of the loop unit that is inactive (R100). -/
def Loop.idle : Loop := ⟨0, 0, 0, 0, false⟩

/-- The register state of a core on which nothing has run: Tables 3.4, 4.7, 4.14, 5.2 and 2.8; zero where no reset value is given (log 3). -/
def Regs.reset : Regs where
  sc := []
  poison := 0
  atag := 0
  v := []
  vpoison := 0
  e := []
  p := []
  g := []
  flags := 0
  stat := 0
  warn := 0
  seed := 0
  sridx := 0
  vrb := 0
  prb := 0
  goff := false
  body := false
  prof := 2
  loops := [Loop.idle, Loop.idle, Loop.idle, Loop.idle]
  opar := none
  frames := []
  rz := 0
  pend := []
  brq := []
  rrec := none
  recov := none
  pc := 0
  space := false
  bno := 0
  lastPc := 0
  lastSpace := false
  comps := []

/-- A segment that has just been opened at `pc` (R107). -/
def Segment.opened (pc : Word) (space : Bool) : Segment :=
  ⟨pc, space, [], [], [], [], 0, [], none⟩

/-- A core after cold reset: no task, every register at its reset value. -/
def Core.reset : Core where
  work := Regs.reset
  mark := Regs.reset
  com := Regs.reset
  run := .idle
  bown := 0
  tcause := 0
  tpc := 0
  tinfo := 0
  sup := false
  bke := false
  sstep := false
  hzd := false
  svec := 0
  save := 0
  areas := []
  ctx := 0
  lcore := 0
  image := 0
  queue := 0
  seg := Segment.opened 0 false
  pending := none
  tiles := []
  opaq := []
  heldStores := []
  pressAt := 0
  applied := 0
  reads := 0
  standIn := none
  failRec := none
  badRec := none
  rolls := 0
  comAt := 0
  restarting := false
  holdUntil := 0
  sync := none
  async := []
  preempt := .none
  saveKind := none
  bskip := false
  breakNow := none
  value := []
  heldValue := []
  valueBack := []
  grafts := []
  inserts := []
  comp := none
  reserved := 0
  lx := false
  lit := 0
  srUsed := 0
  markAfter := false
  skipTo := none
  enter := none
  callQ := none
  repAt := 0
  merged := false
  flagAt := 0
  flagHit := 0
  flagNew := 0
  turnAt := 0
  dropped := []
  issued := 0
  overran := none
  overAt := 0
  stated := 1
  yields := 0
  brels := []
  lateBrels := []
  segs := []
  parked := none
  outgoing := none
  parkAt := 0
  prevCtx := none
  bankCtx := []
  nextBanks := 0
  delivered := 0

/-- The machine right after cold reset: SRAM zero (R339), no task, no function open, nothing measured; ROM is the first stage (R333). -/
def State.reset : State where
  cyc := 0
  gstep := 0
  tickEnd := 256
  mem := []
  poisoned := []
  scrubbing := []
  cores := []
  cur := 0
  images := []
  kicks := 0
  queues := []
  groups := []
  tasks := []
  scheds := []
  rings := []
  msix := []
  dead := []
  svecs := []
  modes := []
  queueCtx := []
  extras := []
  acts := []
  records := []
  nextSeq := 0
  nextMerge := 0
  heldReports := []
  ops := []
  nextOp := 0
  redGroups := []
  channels := []
  reqs := []
  nextReq := 0
  nextVal := 0
  srcSeq := []
  window := []
  waits := []
  heldArrivals := []
  heldInputs := []
  ctbase := 0
  supSegs := []
  engSegs := []
  engRoots := []
  tlb := []
  walks := []
  shootdowns := []
  regions := []
  ringHeads := []
  faults := []
  fto := []
  pools := []
  moves := []
  zeroBlocks := []
  cxlSize := 0
  tiers := []
  links := []
  quarantine := []
  leftAt := 0
  deferred := []
  life := []
  counters := []
  stage := .rom
  failing := []
  mailboxOpen := false
  chip := 0
  domain := false
  hostmask := 0
  hostPorts := []
  failedDevices := []
  parts := []
  m0 := List.replicate 64 0
  m1 := List.replicate 64 0
  m2 := List.replicate 64 0
  pcap := 1800
  stretch := []
  agenda := []
  free := 0
  outbox := []

/-- Core `p` of the package. -/
def State.core (s : State) (p : Nat) : Core := Store.get Core.reset s.cores p

/-- `s` with core `p` replaced. -/
def State.setCore (s : State) (p : Nat) (c : Core) : State := { s with cores := Store.put s.cores p c }

/-- `s` with core `p` changed by `f`. -/
def State.onCore (s : State) (p : Nat) (f : Core → Core) : State := s.setCore p (f (s.core p))

end Sys2Proof.Machine
end

