-- ==== Sys2Proof/Machine/Operands.lean ====
section
/-! DEFINITION. Reading operands: registers by operand code, rotation, the literal, guards (R70, R72, R73, R93, R101, R152, R184). -/

namespace Sys2Proof.Machine

/-- The physical number of v register `k` (R101). -/
def Regs.physV (r : Regs) (k : Nat) : Nat :=
  if decide (16 ≤ k) && decide (k ≤ 39) then 16 + (k - 16 + r.vrb.toNat) % 24 else k

/-- The physical number of predicate `k` (R101). -/
def Regs.physP (r : Regs) (k : Nat) : Nat :=
  if decide (8 ≤ k) && decide (k ≤ 15) then 8 + (k - 8 + r.prb.toNat) % 8 else k

/-- The value of S code `c`, 0 to 59; s0 reads zero (R72). -/
def Regs.readS (r : Regs) (c : Nat) : Word := if c = 0 then 0 else Store.get 0 r.sc c

/-- Whether S code `c` is poisoned; s0 and the literal never are (R152). -/
def Regs.poisonS (r : Regs) (c : Nat) : Bool := decide (0 < c) && decide (c ≤ 59) && r.poison.getLsbD c

/-- Address register `k`: S code 32 + k. -/
def Regs.readA (r : Regs) (k : Nat) : Word := r.readS (32 + k)

/-- The alias-class tag of ak (R75). -/
def Regs.tagA (r : Regs) (k : Nat) : BitVec 2 := r.atag.extractLsb' (2 * k) 2

/-- Predicate `k`; p0 reads all ones (R70). -/
def Regs.readP (r : Regs) (k : Nat) : Word := if k = 0 then allOnes64 else Store.get 0 r.p (r.physP k)

/-- Bit 0 of a guard (R70). -/
def Regs.guard (r : Regs) (g : BitVec 4) : Bool := (r.readP g.toNat).getLsbD 0

/-- The scales of e register `n` (R60). -/
def Regs.readE (r : Regs) (n : Nat) : Scales := Store.get 0 r.e n

/-- Descriptor register `n`. -/
def Regs.readG (r : Regs) (n : Nat) : Desc := Store.get 0 r.g n

/-- The literal as an S-slot operand: sign-extended, zero when LX is 0 (R73). -/
def Core.litS (c : Core) : Word := if c.lx then c.lit.signExtend 64 else 0

/-- The literal in every 32-bit lane, zero when LX is 0 (R73). -/
def Core.litV (c : Core) : Vec :=
  if c.lx then BitVec.ofNat 2048 (packElems 32 (List.replicate 64 c.lit.toNat)) else 0

/-- The value an S-slot source field reads. -/
def Core.srcS (c : Core) (code : BitVec 6) : Word :=
  if code = 62 then c.litS else c.work.readS code.toNat

/-- Whether an S-slot source field reads a poisoned register. -/
def Core.srcPoison (c : Core) (code : BitVec 6) : Bool := c.work.poisonS code.toNat

/-- The value a V-slot source field reads (Table 4.5). -/
def Core.srcV (c : Core) (code : BitVec 6) : Vec :=
  let n := code.toNat
  if n ≤ 47 then Store.get 0 c.work.v (c.work.physV n)
  else if n ≤ 55 then (c.work.readE (n - 48)).setWidth 2048
  else if n = 62 then c.litV
  else 0

/-- Whether a V-slot source field reads a poisoned register (R184). -/
def Core.vPoison (c : Core) (code : BitVec 6) : Bool :=
  decide (code.toNat ≤ 47) && c.work.vpoison.getLsbD (c.work.physV code.toNat)

/-- What a slot's meaning is given: the core, the slot index 1 to 7 and the fields with their fallbacks applied (R82). -/
structure Ctx where
  p : Nat
  slot : Nat
  f : Fields
  deriving DecidableEq, Repr

/-- The core a slot acts on. -/
def Ctx.core (x : Ctx) (s : State) : Core := s.core x.p

/-- The width of the format with this code. -/
def fmtWidth (code : Nat) : Nat := (elemFmt code).width

/-- LI's and MOV's fields, and AADD's, when the destination is no address register: the tag bits are read as 0 (R75, R158). -/
def clearTag (f : Fields) : Fields :=
  if decide (32 ≤ f.d.toNat) && decide (f.d.toNat ≤ 47) then f else { f with f := f.f &&& 12 }

/-- A part number K below 32/w; higher bits read as zero (R191, R202). -/
def cleanPart (w k : Nat) : Nat := k % (32 / w)

/-- The fallbacks of an entry of its own: reserved part bits, reduction codes, float atomics, rounding modes (R82, R158, R169, R174, R191, R194, R201, R202, R205). -/
def entryFallback (i : Instr) (f : Fields) : Fields :=
  match i with
  | .mov _ | .li _ | .aadd _ => clearTag f
  | .amo _ => if decide (2 ≤ bitsOf f.a.toNat 4 2) && decide (f.f &&& 7 ≠ 0) then { f with f := 0 } else f
  | .vfcvt _ _ =>
    let k := cleanPart (fmtWidth f.f.toNat) (bitsOf f.b.toNat 1 2)
    { f with b := BitVec.ofNat 6 (setBits f.b.toNat 1 2 k) }
  | .vunpk _ _ =>
    let k := cleanPart (fmtWidth f.f.toNat) (bitsOf f.b.toNat 3 3)
    { f with b := BitVec.ofNat 6 (setBits f.b.toNat 3 3 k) }
  | .vred _ _ | .vscan _ _ => if f.b &&& 3 = 3 then { f with b := 0 } else f
  | .vamo _ _ => if f.f &&& 3 = 2 then { f with a := f.a &&& 15 } else f
  | _ => f

/-- The fields as the entry reads them: reserved bits and unused fields zero, a reserved F read as 0 (R71, R82). -/
def cleanFields (i : Instr) (f : Fields) : Fields :=
  match rowSpec i with
  | none => f
  | some r =>
    entryFallback i ⟨r.d.clean f.d, r.a.clean f.a, r.b.clean f.b, f.g, r.f.clean f.f⟩

end Sys2Proof.Machine
end

