-- ==== Sys2Proof/Machine/Flags.lean ====
section
/-! DEFINITION. The WARN bits of the fallbacks (R82, Tables 4.13 and 4.14), the stochastic conversions (R55) and the bits that a pending write raises (R50). -/

namespace Sys2Proof.Machine

def warnHDR : BitVec 7 := 1
def warnRSVF : BitVec 7 := 2
def warnNOPX : BitVec 7 := 4
def warnLIT : BitVec 7 := 8
def warnRM : BitVec 7 := 16
def warnSRN : BitVec 7 := 32
def warnMOD : BitVec 7 := 64

/-- `w` if `b`. -/
def warnIf (b : Bool) (w : BitVec 7) : BitVec 7 := if b then w else 0

/-- A set reserved bit or a nonzero unused field (RSVF). -/
def rsvfFields (r : RowSpec) (f : Fields) : Bool :=
  decide (r.d.clean f.d ≠ f.d) || decide (r.a.clean f.a ≠ f.a) || decide (r.b.clean f.b ≠ f.b) ||
    (decide (r.f = .unused) && decide (f.f ≠ 0))

/-- Operand code 62 read while LX = 0 (LIT). -/
def litFields (r : RowSpec) (f : Fields) (lx : Bool) : Bool :=
  !lx && (r.d.readsLit f.d || r.a.readsLit f.a || r.b.readsLit f.b)

/-- A reserved value in F (MOD). -/
def modField (r : RowSpec) (f : Fields) : Bool :=
  match r.f with
  | .below _ | .only _ => decide (r.f.clean f.f ≠ f.f)
  | _ => false

/-- The rounding-mode code of a conversion, with whether its source is narrower than f32 (R51, R55). -/
def modeField (i : Instr) (f : Fields) : Option (Nat × Bool) :=
  match i with
  | .fcvt _ => some ((f.f &&& 7).toNat, decide (1 < (f.b &&& 7).toNat))
  | .vfcvt _ _ => some (bitsOf f.b.toNat 3 3, f.b.getLsbD 0 && decide (f.f ≠ 9))
  | .vpack _ _ => some (bitsOf f.b.toNat 3 3, false)
  | .zmov _ => some (if f.b.getLsbD 5 then 4 else 0, false)
  | _ => none

/-- The rounding mode that a conversion uses: a reserved code or a stochastic request from a narrow source is RNE (R51, R55). -/
def effMode (i : Instr) (f : Fields) : Nat :=
  match modeField i f with
  | none => 0
  | some (m, narrow) => if 5 ≤ m then 0 else if decide (m = 4) && narrow then 0 else m

/-- Whether the row is a conversion in SR mode that uses counters (R55). -/
def isSR (i : Instr) (f : Fields) : Bool := decide (effMode i (cleanFields i f) = 4)

/-- The WARN bits that an instruction's own entry adds to those of its fields. -/
def entryWarn (i : Instr) (f : Fields) (lx : Bool) : BitVec 7 :=
  match i with
  | .mov _ | .li _ | .aadd _ => warnIf (decide (clearTag f ≠ f)) warnMOD
  | .amo _ => warnIf (decide (entryFallback i f ≠ f)) warnMOD
  | .vfcvt _ _ | .vunpk _ _ | .vred _ _ | .vscan _ _ | .vamo _ _ =>
    warnIf (decide (entryFallback i f ≠ f)) warnRSVF
  | .opar _ => warnIf (!lx) warnLIT
  | _ => 0

/-- RM and SRN (R51, R55), from the mode code as it stands in the word: a reserved F bit beside it raises MOD as well (R82). -/
def modeWarn (i : Instr) (f : Fields) : BitVec 7 :=
  match modeField i f with
  | none => 0
  | some (m, narrow) => warnIf (decide (5 ≤ m)) warnRM ||| warnIf (decide (m = 4) && narrow) warnSRN

/-- The WARN bits that a slot word raises at issue, whatever its guard (R82). -/
def warnBits (i : Instr) (f : Fields) (lx : Bool) : BitVec 7 :=
  match rowSpec i with
  | none => warnIf (decide (packWord 0 f ≠ 0)) warnNOPX
  | some r =>
    let g : Fields := ⟨r.d.clean f.d, r.a.clean f.a, r.b.clean f.b, f.g, r.f.clean f.f⟩
    warnIf (rsvfFields r f) warnRSVF ||| warnIf (litFields r f lx) warnLIT |||
      warnIf (modField r f) warnMOD ||| entryWarn i g lx ||| modeWarn i f

end Sys2Proof.Machine
end

