-- ==== Sys2Proof/Machine/Keccak.lean ====
section
/-! DEFINITION. SHAKE256, which R26 and R333 name and the spec does not define: the function of FIPS 202, Keccak-f[1600] at rate 136 (PRESUMED, log 8). -/

namespace Sys2Proof.Machine

/-- The 25 lanes of a Keccak state, lane (x, y) at place x + 5y. -/
abbrev Lanes := List (BitVec 64)

/-- Lane (x, y), its coordinates modulo 5. -/
def Lanes.at (a : Lanes) (x y : Nat) : BitVec 64 := a.getD (x % 5 + 5 * (y % 5)) 0

/-- A state lane by lane from its coordinates. -/
def Lanes.build (f : Nat → Nat → BitVec 64) : Lanes := (List.range 25).map fun k => f (k % 5) (k / 5)

/-- The rotation of each lane in the step rho. -/
def rhoOffsets : List Nat :=
  [0, 1, 62, 28, 27, 36, 44, 6, 55, 20, 3, 10, 43, 25, 39, 41, 45, 15, 21, 8, 18, 2, 61, 56, 14]

/-- The constants of the step iota, round by round. -/
def iotaConstants : List (BitVec 64) :=
  [0x0000000000000001, 0x0000000000008082, 0x800000000000808A, 0x8000000080008000, 0x000000000000808B, 0x0000000080000001,
   0x8000000080008081, 0x8000000000008009, 0x000000000000008A, 0x0000000000000088, 0x0000000080008009, 0x000000008000000A] ++
  [0x000000008000808B, 0x800000000000008B, 0x8000000000008089, 0x8000000000008003, 0x8000000000008002, 0x8000000000000080,
   0x000000000000800A, 0x800000008000000A, 0x8000000080008081, 0x8000000000008080, 0x0000000080000001, 0x8000000080008008]

/-- The parity of each column, and what theta adds to it. -/
def thetaColumns (a : Lanes) : Lanes :=
  let c := (List.range 5).map fun x => (List.range 5).foldl (fun v y => v ^^^ a.at x y) 0
  (List.range 5).map fun x => c.getD ((x + 4) % 5) 0 ^^^ (c.getD ((x + 1) % 5) 0).rotateLeft 1

/-- The steps theta, rho and pi: lane (x, y) goes to (y, 2x + 3y), rotated. -/
def rhoPi (a : Lanes) : Lanes :=
  let d := thetaColumns a
  Lanes.build fun x y =>
    let x' := (x + 3 * y) % 5
    (a.at x' x ^^^ d.getD x' 0).rotateLeft (rhoOffsets.getD (x' + 5 * x) 0)

/-- One round, with its constant. -/
def keccakRound (a : Lanes) (rc : BitVec 64) : Lanes :=
  let b := rhoPi a
  let c := Lanes.build fun x y => b.at x y ^^^ (~~~b.at (x + 1) y &&& b.at (x + 2) y)
  c.set 0 (c.getD 0 0 ^^^ rc)

/-- Keccak-f[1600]. -/
def keccakF (a : Lanes) : Lanes := iotaConstants.foldl keccakRound a

/-- The bytes of a block that a sponge of rate 136 absorbs. -/
def shakeRate : Nat := 136

/-- A message with the domain bits and the padding of SHAKE256. -/
def shakePadded (m : List Byte) : List Byte :=
  let n := shakeRate - m.length % shakeRate
  m ++ if n = 1 then [0x9F] else 0x1F :: List.replicate (n - 2) 0 ++ [0x80]

/-- A block absorbed. -/
def absorb (a : Lanes) (block : List Byte) : Lanes :=
  keccakF (Lanes.build fun x y => a.at x y ^^^ BitVec.ofNat 64 (ofBytes ((block.drop (8 * (x + 5 * y))).take 8)))

/-- The bytes of a state's first `shakeRate` bytes. -/
def squeezed (a : Lanes) : List Byte := (List.range 17).flatMap fun k => toBytes 8 (a.getD k 0).toNat

/-- Output block after output block. -/
def squeeze : Nat → Lanes → List Byte
  | 0, _ => []
  | n + 1, a => squeezed a ++ squeeze n (keccakF a)

/-- SHAKE256 with an output of `n` bytes. -/
def shake256 (n : Nat) (m : List Byte) : List Byte :=
  let p := shakePadded m
  let blocks := (List.range (p.length / shakeRate)).map fun k => (p.drop (shakeRate * k)).take shakeRate
  (squeeze (n / shakeRate + 1) (blocks.foldl absorb (List.replicate 25 0))).take n

end Sys2Proof.Machine
end

