-- ==== Sys2Proof/Machine/Loader.lean ====
section
/-! DEFINITION. Routines as the loader takes them: headers, grades, the canonical body and its digest, what a body may hold, replay safety, the graft ROM (R22 to R26, R31, R33, R38). -/

namespace Sys2Proof.Machine

/-! ### Destinations of a slot word -/

/-- A target of R80: what kind of register, and its architectural name. -/
inductive Target where
  | code (n : Nat)
  | vec (n : Nat)
  | scale (n : Nat)
  | pred (n : Nat)
  | desc (n : Nat)
  | control (n : Nat)
  | flag (n : Nat)
  deriving DecidableEq, Repr

/-- The target that a destination field names; discarded writes have none (R72, R80). -/
def fieldTarget (i : Instr) (r : Role) (v : BitVec 6) : List Target :=
  let n := v.toNat
  match r with
  | .sDst => if n = 0 then [] else [.code n]
  | .vDst | .pressDst | .eDst => if n ≤ 47 then [.vec n] else if n ≤ 55 then [.scale (n - 48)] else []
  | .ctl => match i with
    | .cwr _ => [.control n]
    | _ => []
  | .low4 => match i with
    | .gset _ => [.desc (n % 16)]
    | .rcall _ => [.flag (n % 16)]
    | _ => if n % 16 = 0 then [] else [.pred (n % 16)]
  | .cflag => if v.getLsbD 4 then [.flag (n % 16)] else []
  | _ => []

/-- The targets that a row writes beyond its D field (R80, R163, R164, R186, R189, R196, R212). -/
def extraTargets (i : Instr) (f : Fields) : List Target :=
  let p (n : Nat) : List Target := if n = 0 then [] else [.pred n]
  match i with
  | .brl _ => [.code 47]
  | .loop _ => .code (48 + f.b.toNat % 4) :: (if f.f = 0 then [] else (List.range 8).map fun k => .pred (8 + k))
  | .vld _ _ | .vst _ _ | .vldx _ _ => if f.b = 0 then [] else [.code (32 + f.a.toNat % 16)]
  | .opar _ => [.code f.b.toNat]
  | .vcmp _ _ | .vfcmp _ _ => p (bitsOf f.d.toNat 0 4)
  | _ => []

/-- Every target of a row (R80); the encoding alone decides. -/
def targets (i : Instr) : List Target :=
  match rowSpec i, slotFields i with
  | some r, some f0 =>
    let f := cleanFields i f0
    fieldTarget i r.d f.d ++ extraTargets i f
  | _, _ => []

/-- The instructions of a bundle that decode, with their slots. -/
def bundleInstrs (b : Bundle) : List (Nat × Instr) :=
  (slotWords b).filterMap fun (k, w) => match decodeSlot k w with
    | .ok i => some (k, i)
    | .error _ => none

/-- The tiles that an M-slot word names as a destination (R25). -/
def tileTargets (i : Instr) : List Nat :=
  match i with
  | .opa f | .opar f | .zld f | .zflush f => [bitsOf f.d.toNat 0 3]
  | .zclr f => if f.f = 1 then List.range 8 else [bitsOf f.d.toNat 0 3]
  | _ => []

/-- The tiles that bundles name as destinations. -/
def bodyTiles (bs : List Bundle) : List Nat := bs.flatMap fun b => (bundleInstrs b).flatMap fun q => tileTargets q.2

/-! ### The canonical body (R26) -/

/-- The displacement D:A:B of 18 bits (BR, BRL), and D:B of 12 (CHK, BREL) (R162, R163, R165). -/
def dispDAB (f : Fields) : Nat := (f.d.toNat <<< 12) ||| (f.a.toNat <<< 6) ||| f.b.toNat
def dispDB (f : Fields) : Nat := (f.d.toNat <<< 6) ||| f.b.toNat

/-- The body offset, in bundles, that a BR, a CHK or a branching BREL in body bundle `k` names. -/
def bodyTarget (k : Nat) (i : Instr) : Option Int :=
  match i with
  | .br f => some (k + toSigned 18 (dispDAB f))
  | .chk f => some (k + toSigned 12 (dispDB f))
  | .brel f => if f.f.getLsbD 0 then some (k + toSigned 12 (dispDB f)) else none
  | _ => none

/-- Word w1 of body bundle `k` with its displacement replaced by the target's offset from the start of the body (R26). -/
def canonWord (k : Nat) (w : SlotWord) : SlotWord :=
  match decodeSlot 1 w with
  | .ok i => match bodyTarget k i with
    | some t =>
      let n := wrapInt 32 t
      match i with
      | .br _ => BitVec.ofNat 32 (setBits w.toNat 8 18 n)
      | _ => BitVec.ofNat 32 (setBits (setBits w.toNat 20 6 (n / 64)) 8 6 n)
    | none => w
  | .error _ => w

/-- A bundle as it stands in the canonical body. -/
def canonBundle (k : Nat) (b : Bundle) : Bundle :=
  BitVec.ofNat 256 (setBits b.toNat 32 32 (canonWord k (bundleWord b 1)).toNat)

/-- THE CANONICAL BODY (R26): its bundles in order, then the eight SIG bytes. -/
def canonicalBody (bs : List Bundle) (sig : List Byte) : List Byte :=
  (bs.zipIdx.flatMap fun (b, k) => toBytes 32 (canonBundle k b).toNat) ++ sig

/-- The digest of a routine: the first 16 bytes of SHAKE256 over its canonical body (R26). -/
def bodyDigest (bs : List Bundle) (sig : List Byte) : List Byte := shake256 16 (canonicalBody bs sig)

/-! ### Headers, signatures and grades -/

/-- Bytes `lo` to `lo + n - 1` of a header as a number. -/
def headNat (h : List Byte) (lo n : Nat) : Nat := ofBytes ((List.range n).map fun k => h.getD (lo + k) 0)

/-- A routine header read (Table 2.2); a reserved byte or code that is not as the table has it makes the binary one that the loader rejects (log 69). -/
def readHead (h : List Byte) : Option RoutineHead :=
  let zero (lo n : Nat) : Bool := decide (headNat h lo n = 0)
  let len := headNat h 44 2
  if decide (h.length = 128) && decide (headNat h 40 1 ≤ 2) && decide (headNat h 41 1 ≤ 1) && [1, 2].contains (headNat h 42 1)
      && decide (4 ≤ len) && decide (len ≤ 1024) && decide (headNat h 48 4 % 32 = 0) && zero 43 1 && zero 46 2 && zero 52 4
      && zero 104 24 then
    some ⟨(h.drop 32).take 8, headNat h 40 1, decide (headNat h 41 1 = 1), BitVec.ofNat 2 (headNat h 42 1), len, headNat h 48 4,
      (h.drop 56).take 16, (List.range 8).map fun n => BitVec.ofNat 32 (headNat h (72 + 4 * n) 4)⟩
  else none

/-- The parameters of a signature and its footprints (R23). -/
def RoutineHead.params (h : RoutineHead) : List Param :=
  (List.range 8).map fun n =>
    let s := (h.sig.getD n 0).toNat
    let f := (h.foot.getD n 0).toNat
    ⟨s / 16, s % 16, f / 2 ^ 28, f % 2 ^ 28⟩

/-- A parameter without a reserved role, format or SCALE; the footprint of a value or a tile is zero (R23). -/
def Param.ok (m : Param) : Bool :=
  decide (m.role ≤ 7) && (decide (m.fmt ≤ 11) || decide (m.fmt = 15)) && decide (m.scale ≤ 8) &&
    (!(decide (m.role = 1) || decide (5 ≤ m.role)) || (decide (m.scale = 0) && decide (m.const = 0)))

def Routine.len (r : Routine) : Nat := r.head.len
def Routine.prof (r : Routine) : BitVec 2 := r.head.prof
def Routine.params (r : Routine) : List Param := r.head.params

/-- The effective minimum grade: the stricter of header GRADE and .policy byte, 0 whole, 1 step, 2 none (R24). -/
def Routine.minGrade (r : Routine) : Nat := Nat.max r.head.grade r.policy

/-- Whether a routine is replay-safe: the loader rejects a binary in which a body with REPLAY fails another condition (R33). -/
def Routine.replaySafe (r : Routine) : Bool := r.head.replay

/-! ### What a body may hold (R25) -/

/-- A register that a body may write: the clobber set and the frame set; flags are no registers. -/
def Target.inBody : Target → Bool
  | .code n => (decide (24 ≤ n) && decide (n ≤ 51))
  | .vec n => decide (40 ≤ n) && decide (n ≤ 47)
  | .pred _ | .flag _ => true
  | .desc n => decide (12 ≤ n)
  | .scale _ | .control _ => false

/-- What no slot of a body holds (R25). -/
def forbiddenInBody : Instr → Bool
  | .actb _ | .actp _ | .acte _ | .acta _ | .acts _ | .kick _ _ | .sret _ | .halt _ | .jmp _ | .ret _ | .brl _ | .yield _ => true
  | _ => false

/-- The target of a branch, recovery or loop in body bundle `k` of `len` lies where R25 wants it. -/
def targetOk (len k : Nat) (i : Instr) : Bool :=
  let within (t : Int) (hi : Nat) : Bool := decide (0 ≤ t) && decide (t ≤ (hi : Int))
  match i with
  | .chk f => within (k + toSigned 12 (dispDB f)) (len - 1)
  | .loop f => decide (k + f.d.toNat + 1 ≤ len - 1)
  | i => match bodyTarget k i with
    | some t => within t len && decide (k + 3 < len)
    | none => true

/-- The four conditions of R25 on a body. -/
def bodyOk (bs : List Bundle) : Bool :=
  bs.zipIdx.all fun (b, k) => (bundleInstrs b).all fun (_, i) =>
    (targets i).all Target.inBody && !forbiddenInBody i && targetOk bs.length k i

/-! ### Replay safety (R33) -/

/-- What an S code takes its value from where an instruction writes it: the codes whose addresses the result follows; an empty list where there is none (log 70). -/
def sourcesOf (i : Instr) (f : Fields) (c : Nat) : List Nat :=
  match i with
  | .mov _ => [f.a.toNat]
  | .aadd _ | .sub _ => [f.a.toNat]
  | .add _ => [f.a.toNat, f.b.toNat]
  | .vld _ _ | .vst _ _ | .vldx _ _ | .opar _ => [c]
  | _ => []

/-- The writes of S codes in a body, each with the codes it follows. -/
def bodyWrites (bs : List Bundle) : List (Nat × List Nat) :=
  bs.flatMap fun b => (bundleInstrs b).flatMap fun (_, i) =>
    match slotFields i with
    | some f => (targets i).filterMap fun t => match t with
      | .code c => some (c, sourcesOf i (cleanFields i f) c)
      | _ => none
    | none => []

/-- One round of tracing: a register all of whose writes follow a traced register or itself, one of them a traced one. -/
def traceRound (ws : List (Nat × List Nat)) (t : List Nat) : List Nat :=
  t ++ ((ws.map (·.1)).eraseDups).filter fun c =>
    let mine := ws.filter fun w => decide (w.1 = c)
    !t.contains c && (mine.all fun w => w.2.any fun a => decide (a = c) || t.contains a) && mine.any fun w => w.2.any fun a => t.contains a

/-- The S codes whose values the loader traces to an output-role parameter (R33, log 70). -/
def tracedCodes (bs : List Bundle) (ps : List Param) : List Nat :=
  let ws := bodyWrites bs
  let outs := ps.zipIdx.filterMap fun (m, k) => if m.role = 3 then some (52 + k) else none
  (List.range 64).foldl (fun t _ => traceRound ws t) outs

/-- Every write of a descriptor's destination address in a body follows a traced register, and there is one (R33, log 70). -/
def tracedDesc (bs : List Bundle) (t : List Nat) (g : Nat) : Bool :=
  let ws := bs.flatMap fun b => (bundleInstrs b).filterMap fun (_, i) => match i with
    | .gset f =>
      let f := cleanFields i f
      if decide (f.d.toNat = g) && decide (f.f = 1) then some f.a.toNat else none
    | _ => none
  !ws.isEmpty && ws.all fun a => t.contains a

/-- The destination of a slot word in memory is addressed through a traced register (R33). -/
def destTraced (bs : List Bundle) (t : List Nat) (i : Instr) : Bool :=
  match i with
  | .st f | .barr f => t.contains f.a.toNat
  | .vst _ f | .vscat _ f => t.contains (32 + f.a.toNat % 16)
  | .amo f | .vamo _ f => t.contains (32 + f.a.toNat % 16)
  | .cpy _ f | .cpyt _ f | .rack _ f | .redx _ f | .recv _ f | .ckpt _ f => tracedDesc bs t (f.a.toNat % 16)
  | _ => true

/-- The conditions of R33 beside REPLAY that a loader can find false: an in-out parameter, an untraced destination, more tiles written than there are output tiles. Which tile each parameter names is known at a call (`writesOutputs`). -/
def replayOk (bs : List Bundle) (ps : List Param) : Bool :=
  let t := tracedCodes bs ps
  (ps.all fun m => decide (m.role ≠ 4) && decide (m.role ≠ 7)) &&
    (bs.all fun b => (bundleInstrs b).all fun (_, i) => destTraced bs t i) &&
    decide ((bodyTiles bs).eraseDups.length ≤ ps.countP fun m => decide (m.role = 6))

/-! ### The graft ROM (R38) -/

/-- A digest from the 128-bit number that it is printed as (R26). -/
def printedDigest (n : Nat) : List Byte := (toBytes 16 n).reverse

/-- An entry with predicates on the count in q`reg` only. -/
def countEntry (u : NativeUnit) (step : Bool) (reg multiple least most : Nat) : GraftEntry :=
  ⟨u, step, reg, multiple, least, most, [], [], []⟩

/-- The entry of a GEMM: q1 in the own barrel, q2 in the own B-plane. -/
def gemmEntry (u : NativeUnit) (multiple most : Nat) : GraftEntry :=
  { countEntry u true 3 multiple multiple most with barrel := [1], bplane := [2] }

/-- The entries of Table 2.6 whose digests are printed: digest, profile, entry. -/
def romPrinted : List (Nat × Nat × GraftEntry) :=
  [(0x8a412f7c03d9b6e57710c2ab49f6de38, 2, gemmEntry .press 64 16384),
   (0x1e6b94c05fa23d87b0e96c14a85327dd, 1, gemmEntry .press 64 16384),
   (0x47c2e0198b6d5a3f02e7d4b196f83c50, 2, gemmEntry .press 64 16384),
   (0xb93e6d02c7a841f5e26c0b9758d4a1e3, 2, gemmEntry .press 128 16384),
   (0x2d75a8e1f40c963b7e1a5cd20f86b4c9, 2, gemmEntry .press 128 16384),
   (0xc61f3ab80e54d92784c31f6ae7055b92, 2, gemmEntry .residue 128 4032),
   (0x73a0d5e829c16f4b0a97e3d6b82e1c75, 1, gemmEntry .residue 128 4032),
   (0xe48d07b65c39a21f9d6047ec31a8f5b2, 2, countEntry .residue true 3 256 256 4032),
   (0x0b9a6e3cd18f72a54ce1b7069f2358d0, 2, countEntry .reduction false 2 64 64 32768),
   (0x6f27c4d9a05b1e83d3b608fa72c19e4d, 2, { countEntry .reduction false 2 64 64 32768 with aligned := [3] }),
   (0x9d145be736a0c8f21b7de54c0a69f31e, 2, countEntry .special false 2 64 64 65536),
   (0xa3c871e59f0d2b46e81a5d93c06f47b2, 2, countEntry .special false 2 64 64 65536),
   (0x4e91d32a7c68f0b529de8a14b5c7603f, 2, countEntry .special false 2 64 64 65536),
   (0xd07e2a9c41b6e8536f0a93d1c24e8b17, 2, { countEntry .readPath false 5 64 0 (2 ^ 64) with aligned := [0, 1, 2, 3] }),
   (0x38f6b1d4e02a7c955a8b0d63f9e126c4, 2, countEntry .copyEngine false 2 256 0 (2 ^ 24))]

/-- A bundle from its header word and the words of some slots. -/
def bundleOf (w0 : SlotWord) (l : List (Nat × SlotWord)) : Bundle :=
  packBundle (w0 :: (List.range 7).map fun k => match l.find? fun q => decide (q.1 = k + 1) with
    | some q => q.2
    | none => 0)

/-- The word of an instruction in a body that the spec lists. -/
def wordOf (i : Instr) : SlotWord := (encode i).getD 0

/-- A bundle of a listing: S-slot and vector words with header zero. -/
def listed (l : List (Nat × Instr)) : Bundle := bundleOf 0 (l.map fun (k, i) => (k, wordOf i))

/-- The four load pairs, or the four conversion pairs, of dot4.bf16.seq: register `n` of each slot. -/
def seqLoads : List Bundle :=
  (List.range 4).map fun n => listed
    [(2, .vld .v0 ⟨BitVec.ofNat 6 (40 + n), 1, 4, 0, 1⟩), (3, .vld .v1 ⟨BitVec.ofNat 6 (44 + n), 2, 4, 0, 1⟩)]
def seqConverts : List Bundle :=
  (List.range 4).map fun n =>
    let a : BitVec 6 := BitVec.ofNat 6 (40 + n)
    let b : BitVec 6 := BitVec.ofNat 6 (44 + n)
    listed [(2, .vfcvt .v0 ⟨a, a, 1, 0, 7⟩), (3, .vfcvt .v1 ⟨b, b, 1, 0, 7⟩)]

/-- One step of its sum, with the three bundles that wait for it. -/
def seqStep (i : Instr) : List Bundle := listed [(2, i)] :: List.replicate 3 0

/-- The body of dot4.bf16.seq, bundle by bundle from the listing (R235, R38). -/
def seqBody : List Bundle :=
  [listed [(1, .mov ⟨33, 52, 0, 0, 0⟩)], listed [(1, .mov ⟨34, 53, 0, 0, 0⟩)], listed [(1, .mov ⟨35, 54, 0, 0, 0⟩)],
   listed [(1, .loop ⟨26, 55, 0, 0, 0⟩)]] ++ seqLoads ++ [0, 0] ++ seqConverts ++
  seqStep (.vfmul .v0 ⟨40, 40, 44, 0, 9⟩) ++ seqStep (.vfma .v0 ⟨40, 41, 45, 0, 9⟩) ++
  seqStep (.vfma .v0 ⟨40, 42, 46, 0, 9⟩) ++ seqStep (.vfma .v0 ⟨40, 43, 47, 0, 9⟩) ++
  [listed [(2, .vst .v0 ⟨40, 3, 8, 0, 0⟩)]]

/-- Its SIG bytes (Table 10.1). -/
def seqSig : List Byte := [0x27, 0x27, 0x39, 0x1F, 0, 0, 0, 0]

/-- The body of restore.shard (R247). -/
def shardBody : List Bundle :=
  [listed [(1, .gset ⟨12, 52, 0, 0, 0⟩)], listed [(1, .gset ⟨12, 53, 0, 0, 1⟩)],
   bundleOf 8 [(1, wordOf (.shr ⟨24, 54, 62, 0, 0⟩)), (7, 8)], listed [(1, .gset ⟨12, 24, 0, 0, 4⟩)],
   listed [(5, .cpy .c0 ⟨16, 12, 0, 0, 0⟩)], bundleOf 0x0001C000 []]

/-- Its SIG bytes. -/
def shardSig : List Byte := [0x2F, 0x3F, 0x1F, 0, 0, 0, 0, 0]

/-- The entry of dot4.bf16.seq, in B0 alone (R236). -/
def seqEntry : GraftEntry := ⟨.dot, false, 3, 1, 1, 64, [0, 1, 2], [0, 1, 2], []⟩

/-- The entry of restore.shard. -/
def shardEntry : GraftEntry := { countEntry .copyEngine false 2 256 0 (2 ^ 64) with aligned := [0, 1] }

/-- The entry of the graft ROM whose digest and profile are those given (R31, R38). A0 lacks dot4.bf16.seq. -/
def romEntry (digest : List Byte) (prof : BitVec 2) : Option GraftEntry :=
  if digest.length ≠ 16 then none
  else match romPrinted.find? fun e => decide (printedDigest e.1 = digest) with
    | some e => if e.2.1 = prof.toNat then some e.2.2 else none
    | none =>
      if prof ≠ 2 then none
      else if digest = bodyDigest shardBody shardSig then some shardEntry
      else if digest = bodyDigest seqBody seqSig then (if Config.isB0 then some seqEntry else none)
      else none

/-- The graft-table entry that the loader records for a routine (R31). -/
def Routine.entry (r : Routine) : Option GraftEntry := romEntry r.head.digest r.prof

/-! ### Loading (R22) -/

/-- The bundles of a routine's body in the routine store. -/
def Image.bodyOf (i : Image) (r : Routine) : List Bundle := (List.range r.len).filterMap fun k => Store.find? i.store (r.offset + k)

/-- What the loader accepts of a routine: its parameters, its body and its digest (R23, R25, R26, R33). -/
def Image.acceptsRoutine (i : Image) (r : Routine) : Bool :=
  let bs := i.bodyOf r
  decide (bs.length = r.len) && r.params.all Param.ok && decide (r.policy ≤ 2) && bodyOk bs &&
    (!r.head.replay || replayOk bs r.params) && decide (r.head.digest = bodyDigest bs r.head.sig)

/-- A binary that the loader accepts: a profile code of Table 2.1 that is not reserved (R21), at most 256 routines, in a store of 1,024 bundles (R22). -/
def Image.accepted (i : Image) : Bool :=
  (decide (i.prof = 1) || decide (i.prof = 2)) &&
  decide (i.routines.length ≤ 256) && decide (i.routines.foldl (fun n r => n + r.len) 0 ≤ 1024) &&
    i.routines.all fun r => decide (r.offset + r.len ≤ 1024) && i.acceptsRoutine r

/-- The routines of a binary in the order of their headers, their bodies one after the other in the store (R22, log 69). -/
def indexRoutines : Nat → List (RoutineHead × Nat) → List Routine
  | _, [] => []
  | off, (h, pol) :: l => ⟨h, pol, off⟩ :: indexRoutines (off + h.len) l

/-- The grade byte of .policy for routine `k`: without .policy the header's GRADE stands alone (R24). -/
def policyByte (policy : Option (List Byte)) (k : Nat) : Nat :=
  match policy with
  | some l => (l.getD (4 + k) 0).toNat
  | none => 0

/-- The policy word: its reserved bits are zero, and a byte follows it for each of `n` routines (R24). -/
def policyOk (policy : Option (List Byte)) (n : Nat) : Bool :=
  match policy with
  | some l => decide (l.length = 4 + n) && decide (ofBytes (l.take 4) < 2)
  | none => true

/-- THE LOADER'S PART (R22 to R26, R33): an image with the routines of a binary, from its headers, its .policy section and its .routines section; nothing when the binary is rejected. -/
def loadRoutines (i : Image) (heads : List (List Byte)) (policy : Option (List Byte)) (sect : List Byte) : Option Image :=
  match heads.mapM readHead with
  | none => none
  | some hs =>
    let rs := indexRoutines 0 (hs.zipIdx.map fun (h, k) => (h, policyByte policy k))
    let body (r : Routine) : Store Bundle := (List.range r.len).map fun k =>
      (r.offset + k, BitVec.ofNat 256 (ofBytes ((List.range 32).map fun j => sect.getD (r.head.off + 32 * k + j) 0)))
    let i := { i with
      routines := rs
      store := rs.flatMap body
      rewrite := match policy with
        | some l => decide (ofBytes (l.take 4) % 2 = 1)
        | none => false }
    if policyOk policy hs.length && i.accepted then some i else none

/-- The headers at the start of .routines: as many as stand before the first body that one of them names (R22, log 69). -/
def routineHeads (sect : List Byte) : Nat → Nat → Nat → List (List Byte)
  | 0, _, _ => []
  | fuel + 1, k, first =>
    if 128 * k < first then
      let h := (sect.drop (128 * k)).take 128
      h :: routineHeads sect fuel (k + 1) (Nat.min first (headNat h 48 4))
    else []

/-- LOADING A BINARY (R21): the sections of a Cifold object beside what system software gives the image: the context, the descriptor's address, the entry and the banks that .plan has been given. -/
def loadBinary (i : Image) (sections : List (SectionName × List Byte)) : Except LoadError Image :=
  let names := sections.map (·.1)
  let sect (n : SectionName) : Option (List Byte) := (sections.find? fun e => decide (e.1 = n)).map (·.2)
  let text := (sect .text).getD []
  let body := (sect .routines).getD []
  let code := ofBytes ((sect .profile).getD [])
  if !(([.text, .plan, .profile] : List SectionName).all names.contains) then .error .missing
  else if names.eraseDups ≠ names then .error .twice
  else if decide (text.length % 32 ≠ 0) || decide (((sect .profile).getD []).length ≠ 4) || decide (3 ≤ code) then .error .reserved
  else
    let n := text.length / 32
    let i := { i with
      text := (List.range n).map fun k => (k, BitVec.ofNat 256 (ofBytes ((text.drop (32 * k)).take 32)))
      textLen := n
      prof := BitVec.ofNat 2 code }
    match loadRoutines i (routineHeads body 257 0 body.length) (sect .policy) body with
    | some i => .ok i
    | none => .error .reserved

end Sys2Proof.Machine
end

