-- ==== Sys2Proof/Machine/Memory.lean ====
section
/-! DEFINITION. Locations, windows, pinned segments and the bytes of memory (R123 to R126, R288 to R291, R310, R338). -/

namespace Sys2Proof.Machine

/-- The number of the first SRAM location: physical addresses are 52 bits wide (R288, log 4). -/
def sramBase : Nat := 2 ^ 52

/-- The location of an offset of core `p`'s barrel (0 to 0x7_FFFF) or B-plane (0x8_0000 to 0xB_FFFF). -/
def coreLoc (p off : Nat) : Nat := sramBase + p * 2 ^ 20 + off

/-- The location of a tun offset of cluster `c`. -/
def tunLoc (c off : Nat) : Nat := sramBase + 2 ^ 32 + c * 2 ^ 23 + off

/-- The location of a cellar offset of die `d`. -/
def cellarLoc (d off : Nat) : Nat := sramBase + 2 ^ 33 + d * 2 ^ 26 + off

/-- The rows of Table 6.1 that an address may lie in. -/
inductive Window where
  | barrel (p off : Nat)
  | bplane (p off : Nat)
  | tun (c off : Nat)
  | cellar (d off : Nat)
  | solera (d off : Nat)
  | globalVA (va : Nat)
  deriving DecidableEq, Repr

/-- The window that holds `va` as core `p` sees it; nothing for a reserved address (R123). -/
def windowOf (p va : Nat) : Option Window :=
  if va < 0x80000 then some (.barrel p va)
  else if va < 0xC0000 then some (.bplane p (va - 0x80000))
  else if va < 0x1000000 then none
  else if va < 0x1800000 then
    let n := (va - 0x1000000) / 0x100000
    let off := (va - 0x1000000) % 0x100000
    let q := 8 * (p / 8) + n
    if off < 0x80000 then some (.barrel q off)
    else if off < 0xC0000 then some (.bplane q (off - 0x80000))
    else none
  else if va < 0x10000000 then none
  else if va < 0x10800000 then some (.tun (p / 8) (va - 0x10000000))
  else if va < 0x20000000 then none
  else if va < 0x30000000 then
    let d := (va - 0x20000000) / 0x4000000
    let off := (va - 0x20000000) % 0x4000000
    if off < 0x2E00000 then some (.cellar d off)
    else if off < 0x3000000 then some (.solera d off)
    else none
  else if va < 0x100000000 then none
  else some (.globalVA va)

/-- The window of an address that lies in one: the own barrel and the own B-plane are two; a cluster-core window and a cellar window hold two rows of Table 6.1 each; global VA is one. -/
def windowKey (va : Nat) : Nat :=
  if va < 0x80000 then 0
  else if va < 0xC0000 then 1
  else if va < 0x1800000 then 2 + va / 0x100000
  else if va < 0x10800000 then 26
  else if va < 0x30000000 then 32 + va / 0x4000000
  else 64

/-- Whether the `n` bytes at an address lie in one window (R126). -/
def sameWindow (p va n : Nat) : Bool :=
  (windowOf p va).isSome && (windowOf p (va + (n - 1))).isSome && decide (windowKey va = windowKey (va + (n - 1)))

/-- The fields of a pinned segment entry (Table 17.3). -/
structure PinSeg where
  vbase : Nat
  size : Nat
  pbase : Nat
  r : Bool
  w : Bool
  deriving DecidableEq, Repr

/-- Whether a PA is backed: HBM4E, or the CXL tier's present capacity (Table 17.1). -/
def backedPA (cxlSize pa : Nat) : Bool :=
  decide (pa < 0x8000000000) || (decide (0x100000000000 ≤ pa) && decide (pa < 0x100000000000 + cxlSize))

/-- A pinned segment entry as it is used; an invalid one, one with a misaligned or zero field, or one whose PBASE lies in neither tier, is none (R291, Table 17.1). -/
def pinSeg (b : BitVec 256) : Option PinSeg :=
  let x := b.toNat
  let vbase := bitsOf x 0 64
  let size := bitsOf x 64 64
  let pbase := bitsOf x 128 64
  let tier := decide (0x100000000000 ≤ pbase)
  let placed := decide (pbase < 0x8000000000) || (tier && decide (pbase < 0x180000000000))
  if x.testBit 192 && decide (vbase % 4096 = 0) && decide (0x100000000 ≤ vbase) && decide (size % 4096 = 0)
      && decide (0 < size) && decide (pbase % 4096 = 0) && decide (0 < pbase) && placed && decide (x.testBit 196 = tier) then
    some ⟨vbase, size, pbase, x.testBit 194, x.testBit 195⟩
  else none

/-- The valid entry of lowest number that contains `va` (R291). -/
def findSeg (segs : Store (BitVec 256)) (va : Nat) : Option PinSeg :=
  segs.findSome? fun (_, b) =>
    match pinSeg b with
    | some g => if decide (g.vbase ≤ va) && decide (va < g.vbase + g.size) then some g else none
    | none => none

/-- Table 15.6: SEGV, PERM, MISALIGN as access checks give them. -/
inductive AccFault where
  | segv
  | perm
  | misalign
  deriving DecidableEq, Repr

/-- The cause code of a failing access check (Table 15.6). -/
def AccFault.cause : AccFault → Nat
  | .segv => 3
  | .perm => 4
  | .misalign => 5

/-- Whether a core owns a barrel bank for core accesses: its BOWN bit is set, and no committed BREL has released it (R106, R165). -/
def Core.owns (c : Core) (bank : Nat) : Bool := c.bown.getLsbD bank && !c.brels.any fun b => b.1.getLsbD bank

/-- Banks of core `q` that contexts which have left it, and pass the test, keep (R257). -/
def State.keptBanks (s : State) (q : Nat) (test : CtxRegs → Bool) : BitVec 32 :=
  s.extras.foldl (fun m (_, e) => match e.left with
    | some r => if decide (r.core = q) && test r then m ||| r.bown else m
    | none => m) 0

/-- Whether a context that has left core `q` keeps a bank there: it stays open to the context's other cores and its operations (R18, R257, log 47). -/
def State.keeps (s : State) (q : Nat) (ctx : BitVec 12) (bank : Nat) : Bool := (s.keptBanks q fun r => decide (r.ctx = ctx)).getLsbD bank

/-- Whether core `p` may touch a barrel bank of core `q` (R106, R124): q owns the bank and runs the same context, or that context, which has left q, keeps it (R18, R257; DEDUCED, log 47). -/
def barrelOk (s : State) (p q off : Nat) : Bool :=
  let c := s.core q
  let ctx := (s.core p).ctx
  (c.owns (off / 0x4000) && (decide (p = q) || decide (c.ctx = ctx))) || (decide (p ≠ q) && s.keeps q ctx (off / 0x4000))

/-- The pinned segments that core `p` resolves global VA through: the supervisor's at supervisor level (R256). -/
def coreSegs (s : State) (p : Nat) : Store (BitVec 256) :=
  let c := s.core p
  if c.sup then s.supSegs else c.segs

/-- Whether core `p` has the permission of R126 at one address of a window; a segment has its own. -/
def permits (s : State) (p va : Nat) (write : Bool) : Bool :=
  match windowOf p va with
  | some (.barrel q off) => barrelOk s p q off
  | some (.bplane q _) => write && (decide (p = q) || decide ((s.core q).ctx = (s.core p).ctx))
  | some (.tun _ _) | some (.cellar _ _) | some (.globalVA _) => true
  | some (.solera _ _) | none => false

/-- The location that a core's address names outside global VA. -/
def windowLoc (p va : Nat) : Nat :=
  match windowOf p va with
  | some (.barrel q off) => coreLoc q off
  | some (.bplane q off) => coreLoc q (0x80000 + off)
  | some (.tun c off) => tunLoc c off
  | some (.cellar d off) | some (.solera d off) => cellarLoc d off
  | some (.globalVA _) | none => 0

/-- The access checks of R126 for `n` bytes at `va` by core `p`, in their order, with the first location of the access when they pass. A segment whose bytes have no backing gives no location (R288). -/
def access (s : State) (p va n align : Nat) (write : Bool) : Except AccFault Nat :=
  let aligned (loc : Nat) : Except AccFault Nat := if va % align = 0 then .ok loc else .error .misalign
  if !sameWindow p va n then .error .segv
  else if va < 0x100000000 then
    if permits s p va write && permits s p (va + (n - 1)) write then aligned (windowLoc p va) else .error .perm
  else match findSeg (coreSegs s p) va with
    | none => .error .segv
    | some g =>
      let pa := g.pbase + (va - g.vbase)
      if decide (g.vbase + g.size < va + n) || !backedPA s.cxlSize pa || !backedPA s.cxlSize (pa + (n - 1)) then .error .segv
      else if if write then g.w else g.r then aligned pa else .error .perm

/-- The size of the error-correction granule that holds a location (R310, Table 18.2). -/
def granule (loc : Nat) : Nat :=
  if sramBase ≤ loc then 8 else if 0x100000000000 ≤ loc then 64 else 32

/-- The first location of a location's granule. -/
def granuleBase (loc : Nat) : Nat := loc - loc % granule loc

/-- Whether a byte of memory is uncorrectable (R310). -/
def State.isPoisoned (s : State) (loc : Nat) : Bool := s.poisoned.contains (granuleBase loc)

/-- The byte at a location. -/
def State.readByte (s : State) (loc : Nat) : Byte := Store.get 0 s.mem loc

/-- The canonical form of memory. -/
def Memory.wf (m : Memory) : Bool := Store.wf (0 : Byte) m

/-- Writes bytes in order, the last one to a location stands. -/
def Memory.write (m : Memory) (bs : List (Nat × Byte)) : Memory :=
  bs.foldl (fun m (a, b) => Store.set 0 m a b) m

/-- The 256-byte blocks of HBM4E that a write covers with zeros (R305). -/
def zeroedBlocks (bs : List (Nat × Byte)) : List Nat :=
  if bs.length < 256 then []
  else
    let blocks := ((bs.filter fun (a, b) => decide (a < 0x8000000000) && decide (b = 0)).map fun (a, _) => a / 256 * 256).eraseDups
    blocks.filter fun z => (List.range 256).all (fun k => bs.any fun (a, _) => decide (a = z + k)) &&
      !bs.any fun (a, b) => decide (a / 256 * 256 = z) && decide (b ≠ 0)

/-- Memory written: a granule wholly covered is no longer poisoned (R310); a block written with zeros is marked, and data other than zero clears a block's mark (R305). -/
def State.writeBytes (s : State) (bs : List (Nat × Byte)) : State :=
  { s with
    mem := Memory.write s.mem bs
    poisoned := s.poisoned.filter fun g => !((List.range (granule g)).all fun k => bs.any fun (a, _) => decide (a = g + k))
    zeroBlocks := (s.zeroBlocks.filter fun z => !(bs.any fun (a, b) => decide (a / 256 * 256 = z) && decide (b ≠ 0))) ++
      (zeroedBlocks bs).filter fun z => !s.zeroBlocks.contains z }

/-- Bytes as writes to consecutive locations. -/
def bytesAt (loc : Nat) (bs : List Byte) : List (Nat × Byte) :=
  (List.range bs.length).zipWith (fun k b => (loc + k, b)) bs

/-- The `n` bytes from a location on, as a number. -/
def State.readNat (s : State) (loc n : Nat) : Nat :=
  ofBytes ((List.range n).map fun k => s.readByte (loc + k))

/-- A number written as `n` bytes. -/
def State.writeNat (s : State) (loc n v : Nat) : State := s.writeBytes (bytesAt loc (toBytes n v))

/-- The tun bank group of a location: cluster and group (R338, Table 18.1). -/
def tunGroupOf (loc : Nat) : Option (Nat × Nat) :=
  let o := loc - (sramBase + 2 ^ 32)
  if decide (sramBase + 2 ^ 32 ≤ loc) && decide (loc < sramBase + 2 ^ 33) then
    some (o / 2 ^ 23, bitsOf (o % 2 ^ 23) 20 3)
  else none

/-- Whether a location lies in core `p`'s own barrel or B-plane. -/
def isOwnSram (p loc : Nat) : Bool := decide (coreLoc p 0 ≤ loc) && decide (loc < coreLoc p 0xC0000)

/-- Whether a location lies in a barrel or B-plane of any core. -/
def isCoreSram (loc : Nat) : Bool := decide (sramBase ≤ loc) && decide (loc < sramBase + 2 ^ 32)

/-- Whether a location lies in core `p`'s own B-plane. -/
def isOwnBplane (p loc : Nat) : Bool := decide (coreLoc p 0x80000 ≤ loc) && decide (loc < coreLoc p 0xC0000)

/-- The strike region that a location's bytes come from (R313); bytes of HBM4E and of the CXL tier take the egress block of `die`. -/
def regionOf (die loc : Nat) : Region :=
  if loc < sramBase then .egress die
  else if loc < sramBase + 2 ^ 32 then .core ((loc - sramBase) / 2 ^ 20)
  else if loc < sramBase + 2 ^ 33 then
    let o := loc - (sramBase + 2 ^ 32)
    .tunGroup (o / 2 ^ 23) (bitsOf (o % 2 ^ 23) 20 3)
  else
    let o := loc - (sramBase + 2 ^ 33)
    .cellarGroup (o / 2 ^ 26) (o % 2 ^ 26 / 0x400000)

/-- Whether a location's row waits for its scrub (R310). -/
def State.scrubs (s : State) (loc : Nat) : Bool := s.scrubbing.contains (regionOf 0 loc)

/-- Whether some of `n` bytes wait for a scrub, or hold uncorrectable data (R310). -/
def rowsWait (s : State) (loc n : Nat) : Bool := !s.scrubbing.isEmpty && (List.range n).any fun k => s.scrubs (loc + k)
def rowsLost (s : State) (loc n : Nat) : Bool := !s.poisoned.isEmpty && (List.range n).any fun k => s.isPoisoned (loc + k)

end Sys2Proof.Machine
end

