-- ==== Sys2Proof/Machine/Desc.lean ====
section
/-! DEFINITION. Descriptor registers: their fields, and the elements of a command in iteration order (R76, Table 4.7, R218). -/

namespace Sys2Proof.Machine

/-- Element size in bytes (Table 4.7). -/
def descEsize (g : Desc) : Nat := bitsOf g.toNat 128 8
/-- Source VA. -/
def descSva (g : Desc) : Nat := bitsOf g.toNat 0 64
/-- Destination VA. -/
def descDva (g : Desc) : Nat := bitsOf g.toNat 64 64
/-- Completion-object VA; 0 is none. -/
def descCva (g : Desc) : Nat := bitsOf g.toNat 144 64
/-- The count of dimension `d`. -/
def descCount (g : Desc) (d : Nat) : Nat := bitsOf g.toNat (208 + 100 * d) 20

/-- Count and signed stride of every dimension, innermost first; the source strides or the destination strides. -/
def descDims (g : Desc) (dst : Bool) : List (Nat × Int) :=
  (List.range 6).map fun d => (descCount g d, toSigned 40 (bitsOf g.toNat ((if dst then 268 else 228) + 100 * d) 40))

/-- The number of elements: a count of 0 in any dimension moves nothing (R76). -/
def descTotal (g : Desc) : Nat := (List.range 6).foldl (fun n d => n * descCount g d) 1

/-- The offsets of all elements, the first dimension fastest (R218). -/
def offsets : List (Nat × Int) → List Int
  | [] => [0]
  | (n, st) :: l => (offsets l).flatMap fun o => (List.range n).map fun (i : Nat) => o + (i : Int) * st

/-- The addresses of the elements from `base` on, modulo 2^64. -/
def elementVAs (base : Nat) (dims : List (Nat × Int)) : List Nat :=
  (offsets dims).map fun o => wrapInt 64 ((base : Int) + o)

/-- Source element addresses in iteration order. -/
def sourceVAs (g : Desc) : List Nat := elementVAs (descSva g) (descDims g false)

/-- Destination element addresses in iteration order. -/
def destVAs (g : Desc) : List Nat := elementVAs (descDva g) (descDims g true)

/-- The core SRAM location that an address names for core `p`. -/
def coreWindowLoc (p va : Nat) : Option Nat :=
  match windowOf p va with
  | some (.barrel q off) => some (coreLoc q off)
  | some (.bplane q off) => some (coreLoc q (0x80000 + off))
  | _ => none

/-- The bank of a core SRAM location (R104). -/
def bankOf (loc : Nat) : Nat := loc / 0x4000

/-- Whether a released command writes destination elements. -/
def CmdKind.writes : CmdKind → Bool
  | .cpy | .cpyt | .rack | .redx | .recv | .ckpt => true
  | .migr | .send | .drain | .pref => false

/-- Whether a command of core `p` writes a byte of one of the banks. -/
def Command.writesBank (c : Command) (p : Nat) (banks : List Nat) : Bool :=
  c.kind.writes && (destVAs c.desc).any fun va =>
    [va, va + (descEsize c.desc - 1)].any fun a =>
      match coreWindowLoc p a with
      | some loc => banks.contains (bankOf loc)
      | none => false

/-- The number that names a grafted call of a core among the operations an access waits for. -/
def graftTag (id : Nat) : Nat := 2 ^ 32 + id

/-- What an access of core `p` with MA = 1 waits for (R128): the operations it has released that write one of the banks, its own or a peer's, and its grafted calls, which are engine operations too. -/
def State.waitsFor (s : State) (p : Nat) (locs : List Nat) : List Nat :=
  let sram := locs.filter isCoreSram
  if sram.isEmpty then []
  else
    let banks := (sram.map bankOf).eraseDups
    (s.ops.filterMap fun (k, o) => if decide (o.core = p) && o.cmd.writesBank o.origin.1 banks then some k else none) ++
      (s.core p).grafts.map fun (k, _) => graftTag k

end Sys2Proof.Machine
end

