-- ==== Sys2Proof/Machine/Pend.lean ====
section
/-! DEFINITION. Pending writes and their landing, loads in flight, the cask (R81, R93, R97, R98, R110, R111, R127, R128). -/

namespace Sys2Proof.Machine

/-- A number for the next pending write of a core. -/
def Regs.nextId (r : Regs) : Nat := r.pend.foldl (fun n q => Nat.max n (q.id + 1)) 0

/-- A pending write of latency `lat` from the bundle being issued, with no mask, poison or sticky bits. -/
def Regs.write (r : Regs) (slot lat : Nat) (dest : Dest) (value : Vec) : Pending :=
  ⟨r.nextId, r.bno + lat, r.bno, slot, dest, value, allOnes64, false, none, 0, 0, none, 0⟩

/-- A core with one more pending write. -/
def Core.addPend (c : Core) (q : Pending) : Core := { c with work := { c.work with pend := c.work.pend ++ [q] } }

/-- Adds a pending write that `f` completes from the plain one. -/
def pushWrite (x : Ctx) (lat : Nat) (dest : Dest) (value : Vec) (f : Pending → Pending) (s : State) : State :=
  s.onCore x.p fun c => c.addPend (f { c.work.write x.slot lat dest value with since := s.cyc.toNat })

/-- STAT bits raised with a result of latency `lat` that goes nowhere (R50, R72). -/
def pushStat (x : Ctx) (lat : Nat) (st : BitVec 6) (s : State) : State :=
  if st = 0 then s else pushWrite x lat .nothing 0 (fun q => { q with stat := st }) s

/-- WARN bits raised by the bundle, visible at i + 1 (R82). -/
def pushWarn (x : Ctx) (w : BitVec 7) (s : State) : State :=
  if w = 0 then s else pushWrite x 1 .nothing 0 (fun q => { q with warn := w }) s

/-- A result for S code `code`: a write to s0 is discarded and its STAT bits remain (R72); poison is written with it (R152). -/
def putS (x : Ctx) (lat : Nat) (code : BitVec 6) (v : Word) (poison : Bool) (st : BitVec 6) (s : State) : State :=
  if code = 0 then pushStat x lat st s
  else pushWrite x lat (.scalar code.toNat) ((if poison then 0 else v).setWidth 2048)
    (fun q => { q with poison := poison, stat := st }) s

/-- A result for predicate `n`, in the bits of `mask`; a write to p0 is discarded (R74), and with no active lane there is none (R95). -/
def putP (x : Ctx) (lat n : Nat) (v mask : Word) (s : State) : State :=
  if n = 0 ∨ mask = 0 then s
  else pushWrite x lat (.pred ((x.core s).work.physP n)) (v.setWidth 2048) (fun q => { q with mask := mask }) s

/-- The byte mask of e register lanes: byte j lies in lane j/4. -/
def laneToByteMask (m : Word) : Word := maskOf fun j => m.getLsbD (j / 4)

/-- A result for V code `code`, in the lanes of `mask`: D = 63 discards it, an e register keeps bits 511:0 (R72, R183). With no active lane and clean sources there is no write, as for a false guard (R95), and so D keeps its poison bit (DEDUCED, log 99: R184 has any clean write clear the bit, and R95 makes none); a poisoned source writes the whole register whatever the lanes (R184). -/
def putV (x : Ctx) (lat : Nat) (code : BitVec 6) (v : Vec) (mask : Word) (poison : Bool) (st : BitVec 6) (s : State) : State :=
  let n := code.toNat
  if 56 ≤ n ∨ (mask = 0 ∧ poison = false) then pushStat x lat st s
  else if 48 ≤ n then
    pushWrite x lat (.scale (n - 48)) (if poison then 0 else (v.setWidth 512).setWidth 2048)
      (fun q => { q with mask := if poison then allOnes64 else laneToByteMask mask, stat := st }) s
  else
    pushWrite x lat (.vector ((x.core s).work.physV n)) (if poison then 0 else v)
      (fun q => { q with mask := if poison then allOnes64 else mask, poison := poison, stat := st }) s

/-- The value a load delivers from its raw bytes. -/
def Extend.apply (e : Extend) (v : Vec) : Vec :=
  match e with
  | .zero => v
  | .scalar bits => BitVec.ofNat 2048 (signExtend bits 64 v.toNat)
  | .laneBytes => BitVec.ofNat 2048 (packElems 32 ((unpackElems 32 64 v.toNat).map fun l => signExtend 8 32 l))
  | .transpose w =>
    let g := unpackElems 32 64 v.toNat
    BitVec.ofNat 2048 (packElems w ((List.range (2048 / w)).map fun e => bitsOf (g.getD (e % 64) 0) (w * (e / 64)) w))

/-- The value of a pending write as it lands. -/
def Pending.final (q : Pending) : Vec :=
  match q.load with
  | some l => if q.poison then 0 else l.ext.apply q.value
  | none => q.value

/-- The bits of `old` with those of `new` where `mask` is 1. -/
def mergeMask {w : Nat} (mask old new : BitVec w) : BitVec w := (old &&& ~~~mask) ||| (new &&& mask)

/-- A scalar write lands: lc keeps bits 31:0 (R72), the poison bit follows (R152). -/
def Regs.landScalar (r : Regs) (code : Nat) (v : Word) (poison : Bool) (tag : Option (BitVec 2)) : Regs :=
  let w : Word := if decide (48 ≤ code) && decide (code ≤ 51) then v &&& 0xFFFFFFFF else v
  let bit : Word := 1#64 <<< code
  let atag := match tag with
    | some t => mergeMask (3#32 <<< (2 * (code - 32))) r.atag (t.setWidth 32 <<< (2 * (code - 32)))
    | none => r.atag
  { r with
    sc := Store.set 0 r.sc code w
    poison := if poison then r.poison ||| bit else r.poison &&& ~~~bit
    atag := atag }

/-- One pending write takes effect in the register state (R93). Writes of control registers outside the copies are the core's (`Core.landControl`). -/
def Regs.landOne (r : Regs) (q : Pending) : Regs :=
  let v := q.final
  match q.dest with
  | .scalar code => r.landScalar code (v.setWidth 64) q.poison q.tag
  | .vector k =>
    let bit : Word := 1#64 <<< k
    { r with
      v := Store.set 0 r.v k (mergeMask (laneMask q.mask) (Store.get 0 r.v k) v)
      vpoison := if q.poison then r.vpoison ||| bit else r.vpoison &&& ~~~bit }
  | .pred k => { r with p := Store.set 0 r.p k (mergeMask q.mask (Store.get 0 r.p k) (v.setWidth 64)) }
  | .scale n => { r with e := Store.set 0 r.e n (mergeMask (byteMask q.mask) (r.readE n) (v.setWidth 512)) }
  | .desc n => { r with g := Store.set 0 r.g n (v.setWidth 1024) }
  | .control n =>
    match n with
    | 0 => { r with stat := v.setWidth 6 }
    | 1 => { r with warn := v.setWidth 7 }
    | 2 => { r with seed := v.setWidth 64 }
    | 3 => { r with sridx := v.setWidth 64 }
    | 4 =>
      let vrb := bitsOf v.toNat 0 5
      { r with vrb := BitVec.ofNat 5 (if 24 ≤ vrb then vrb - 24 else vrb), prb := v.extractLsb' 8 3 }
    | 12 => { r with goff := v.getLsbD 3 }
    | _ => r
  | .nothing => r

/-- Bits of writes landing together are ORed into STAT and WARN after the values (R50, R82). -/
def Regs.raise (r : Regs) (qs : List Pending) : Regs :=
  { r with
    stat := qs.foldl (fun b q => b ||| q.stat) r.stat
    warn := qs.foldl (fun b q => b ||| q.warn) r.warn }

/-- Whether `a` lands before `b`: by visibility, then issuing bundle, then the order of issue, which is slot order within a bundle and puts a recovery bundle before the bundle it is merged into (R81, R162). -/
def Pending.before (a b : Pending) : Bool :=
  decide (a.vis < b.vis) || (decide (a.vis = b.vis) && (decide (a.bno < b.bno) || (decide (a.bno = b.bno) && decide (a.id ≤ b.id))))

/-- Inserts a pending write in landing order. -/
def insertPend (q : Pending) : List Pending → List Pending
  | [] => [q]
  | a :: l => if a.before q then a :: insertPend q l else q :: a :: l

/-- Pending writes in landing order. -/
def sortPend (l : List Pending) : List Pending := l.foldr insertPend []

/-- Every pending write whose visibility bundle is at most `upto` lands; the later of two lands last (R81, R93). -/
def Regs.land (r : Regs) (upto : Nat) : Regs :=
  let due := sortPend (r.pend.filter fun q => decide (q.vis ≤ upto))
  let r := { r with pend := r.pend.filter fun q => !decide (q.vis ≤ upto) }
  (due.foldl Regs.landOne r).raise due

/-- A write of a control register that lies outside the three copies takes effect (Tables 15.1 to 15.5, 7.5). -/
def Core.landControl (c : Core) (q : Pending) : Core :=
  let v := q.value.setWidth 64
  match q.dest with
  | .control 8 => { c with tcause := v &&& 0xFFF }
  | .control 9 => { c with tpc := v &&& ~~~0x1E }
  | .control 10 => { c with tinfo := v }
  | .control 11 => { c with bke := v.getLsbD 2, sstep := v.getLsbD 1, hzd := v.getLsbD 0 }
  | .control 13 => { c with svec := v &&& ~~~0x1F }
  | .control 14 => { c with save := v &&& ~~~0xFFFFF, ctx := v.setWidth 12, areas := Store.put c.areas (v.toNat % 4096) (v &&& ~~~0xFFFFF) }
  | _ => c

/-- The working copy after every write that is due at bundle `upto`. -/
def Core.land (c : Core) (upto : Nat) : Core :=
  let due := sortPend (c.work.pend.filter fun q => decide (q.vis ≤ upto))
  { due.foldl Core.landControl c with work := c.work.land upto }

/-- The last byte a store's list gives a location. -/
def lastByte (bs : List (Nat × Byte)) (loc : Nat) : Option Byte :=
  bs.foldl (fun acc (a, b) => if a = loc then some b else acc) none

/-- The stores of a core that memory does not hold yet, in issue order: published ones that wait at their banks (R128), and those of the uncommitted segments (R111). -/
def Core.cask (c : Core) : List CaskEntry :=
  c.heldStores ++ (match c.pending with
    | some g => g.stores
    | none => []) ++ c.seg.stores

/-- The byte that the youngest cask entry of a bundle before the current one holds (R111, R130). A load of another class takes it too (DEDUCED, log 103: R111 and R127 give the core's loads what the cask holds, and Table 8.5's last row allows either value). -/
def Core.caskByte (c : Core) (loc : Nat) : Option Byte :=
  c.cask.foldl (fun acc e =>
    if e.bno < c.work.bno then
      match lastByte e.bytes loc with
      | some b => some b
      | none => acc
    else acc) none

/-- The byte a load of core `p` reads. -/
def State.loadByte (s : State) (p loc : Nat) : Byte := ((s.core p).caskByte loc).getD (s.readByte loc)

/-- Whether a load of the core reaches uncorrectable data at a location. -/
def State.loadBad (s : State) (p loc : Nat) : Bool :=
  ((s.core p).caskByte loc).isNone && s.isPoisoned loc

/-- The raw value of a load: each location's byte at its bit position. -/
def State.loadRaw (s : State) (p : Nat) (bytes : List (Nat × Nat)) : Nat :=
  bytes.foldl (fun v (loc, pos) => v ||| ((s.loadByte p loc).toNat <<< pos)) 0

/-- The tun bank groups of a list of locations. -/
def tunGroups (locs : List Nat) : List (Nat × Nat) := (locs.filterMap tunGroupOf).eraseDups

/-- The open segment has touched tun bank groups (R116). -/
def Core.touch (c : Core) (locs : List Nat) : Core :=
  { c with seg := { c.seg with tun := (c.seg.tun ++ tunGroups locs).eraseDups } }

/-- A load whose value is read at its bank as a wait there ends, and which waits still (R128, R131, R310). -/
def Pending.atBank (q : Pending) : Bool := match q.load with
  | some l => !l.arrived && l.reread
  | none => false

/-- A load that waits at its bank stands before a later access of its class to overlapping bytes, or to the own SRAM where it reads that too (Table 6.2 lo (a) and (b), R131). -/
def Pending.precedes (p : Nat) (cls : BitVec 2) (locs : List Nat) (bno : Nat) (q : Pending) : Bool :=
  q.atBank && decide (q.bno < bno) && match q.load with
    | some l => decide (l.cls = cls) &&
        ((l.bytes.all (fun b => isOwnSram p b.1) && locs.all (isOwnSram p)) || l.bytes.any fun b => locs.contains b.1)
    | none => false

/-- The loads of core `p` in flight, in whichever copy they are still owed. -/
def Core.inFlight (c : Core) : List Pending := c.work.pend ++ c.mark.pend ++ c.com.pend

/-- An older load of core `p` that waits at its bank stands before an access of bundle `bno` (R131). -/
def Core.loadsBefore (c : Core) (p : Nat) (cls : BitVec 2) (locs : List Nat) (bno : Nat) : Bool :=
  c.inFlight.any (Pending.precedes p cls locs bno)

/-- The lane in which a load of a per-lane form first meets what `bad` finds (Table 15.7). -/
def firstBadLane (form : LoadForm) (bad : Nat → Bool) (bytes : List (Nat × Nat)) : Nat :=
  if form = .perLane then match bytes.find? fun b => bad b.1 with
    | some b => b.2 / 32
    | none => 0
  else 0

/-- A load enters flight: `bytes` are its locations with their places in the raw value. A load from the own barrel has its data at its latency (R104) unless a scrub, an MA wait or an older load that waits so holds it; VLDE, which the bank wheels do not serve, waits for a scrub alone (Table 5.1). Any other load's data arrives by an event of its own (R98). `hw` is the access's own latency in cycles. -/
def pushLoad (x : Ctx) (lat hw : Nat) (dest : Dest) (mask : Word) (bytes : List (Nat × Nat)) (ext : Extend)
    (cls : BitVec 2) (timed ma spec : Bool) (form : LoadForm) (s : State) : State :=
  let locs := bytes.map (·.1)
  let after := if ma then s.waitsFor x.p locs else []
  let bad := locs.any (s.loadBad x.p)
  let held := (locs.any fun a => s.scrubbing.contains (regionOf 0 a)) ||
    (decide (form ≠ .aside) && (x.core s).loadsBefore x.p cls locs (x.core s).work.bno)
  let arrived := locs.all (isOwnSram x.p) && after.isEmpty && !bad && !held
  let c := x.core s
  let l : LoadInfo := ⟨bytes, cls, ext, timed, arrived, s.cyc.toNat + hw, after, bad && !spec, held || !after.isEmpty, spec, c.work.pc,
    c.work.space, [], form, firstBadLane form (s.loadBad x.p) bytes, []⟩
  let raw := s.loadRaw x.p bytes
  (pushWrite x lat dest (BitVec.ofNat 2048 raw) (fun q => { q with mask := mask, load := some l }) s).onCore x.p
    fun c => c.touch locs

/-- Whether the value of a load is read at its bank, when a wait there ends (R128, R310). -/
def State.heldAtBank (s : State) (p : Nat) (ma : Bool) (cls : BitVec 2) (locs : List Nat) : Bool :=
  (ma && !(s.waitsFor p locs).isEmpty) || (locs.any fun a => s.scrubbing.contains (regionOf 0 a)) ||
    (s.core p).loadsBefore p cls locs (s.core p).work.bno

/-- A load whose result is discarded still touches what it reads (R98). -/
def discardLoad (x : Ctx) (cls : BitVec 2) (bytes : List (Nat × Nat)) (s : State) : State :=
  s.onCore x.p fun c => { c.touch (bytes.map (·.1)) with dropped := c.dropped ++ [(x.slot, cls, bytes.map (·.1))] }

/-- What a load whose value is read again makes of bytes that the core's own store of bundle `bno` is about to write: of a store that is not older it keeps their values before it (R127, R130), of an older one it takes them (R131). -/
def LoadInfo.keep (l : LoadInfo) (s : State) (loadBno bno : Nat) (bs : List (Nat × Byte)) : LoadInfo :=
  if l.arrived || !l.reread then l
  else if bno < loadBno then { l with seen := l.seen.map fun (a, b) => (a, (lastByte bs a).getD b) }
  else { l with kept := l.kept ++ l.bytes.filterMap fun (a, _) =>
      if (lastByte bs a).isSome && !l.kept.any (fun k => decide (k.1 = a)) then some (a, s.readByte a) else none }

/-- The core's loads at their banks keep, or take, the bytes that a store of bundle `bno` is about to write. -/
def keepBytes (p bno : Nat) (bs : List (Nat × Byte)) (s : State) : State :=
  let keep (q : Pending) : Pending := { q with load := q.load.map fun l => l.keep s q.bno bno bs }
  let regs (r : Regs) : Regs := { r with pend := r.pend.map keep }
  s.onCore p fun c => { c with work := regs c.work, mark := regs c.mark, com := regs c.com }

/-- A published store is performed in memory. Where a word of its entry could not be corrected, what it writes is uncorrectable (R310, R311; DESIGN CHOICE, log 38). -/
def performStore (p : Nat) (e : CaskEntry) (s : State) : State :=
  let t := (keepBytes p e.bno e.bytes s).writeBytes e.bytes
  { t with poisoned := if e.lost then (t.poisoned ++ e.bytes.map fun b => granuleBase b.1).eraseDups else t.poisoned }

/-- Whether two stores share a location. -/
def CaskEntry.meets (a b : CaskEntry) : Bool := a.bytes.any fun (x, _) => b.bytes.any fun (y, _) => decide (x = y)

/-- Whether a store of core `p` goes to its own SRAM. -/
def CaskEntry.own (p : Nat) (e : CaskEntry) : Bool := e.bytes.all fun b => isOwnSram p b.1

/-- Store `a` is performed before store `b` of core `p`: they share a location, or both go to the own SRAM in one class and `a` is of an older bundle (Table 6.2 lo (a), R131). -/
def CaskEntry.first (p : Nat) (a b : CaskEntry) : Bool :=
  a.meets b || (a.own p && b.own p && decide (a.cls = b.cls) && decide (a.bno < b.bno))

/-- Whether an entry of a press's queue is a store. -/
def TileOp.isStore : TileOp → Bool
  | .store _ => true
  | _ => false

/-- Whether a published store waits: at its bank for an engine write (R128), for a scrub (R310), or on its way to where other agents see it (R132). -/
def CaskEntry.waits (s : State) (e : CaskEntry) : Bool :=
  !e.after.isEmpty || decide (s.cyc.toNat < e.visAt) || e.bytes.any fun (a, _) => s.scrubs a

/-- The value operation with number `vid` that a core awaits. -/
def Core.valueReq (c : Core) (vid : Nat) : Option ValueReq := (c.value ++ c.heldValue).find? fun v => decide (v.vid = vid)

/-- The slot of a value operation that core `p` awaits, if it is one of bundle `bno` (R130). -/
def Core.valueSlot (c : Core) (vid bno : Nat) : Option Nat :=
  if c.com.bno = bno + 1 then (c.valueReq vid).map (·.slot) else none

/-- A store of core `p` of bundle `bno` and slot `slot` comes after an atomic of the same bundle that stands in a lower slot (R130). -/
def Core.storeAfter (c : Core) (vid : Nat) (e : CaskEntry) : Bool := match c.valueSlot vid e.bno with
  | some k => decide (k < e.slot)
  | none => false

/-- An atomic of its own bundle that has not been applied stands before a store (R130). -/
def State.atomicBefore (s : State) (p : Nat) (e : CaskEntry) : Bool :=
  s.reqs.any fun (_, r) => !r.applied && (e.bytes.any fun (a, _) => decide (r.loc ≤ a) && decide (a < r.loc + r.width)) &&
    r.parts.any fun q => decide (q.core = p) && (s.core p).storeAfter q.vid e

/-- An older store to the own B-plane that has not had its turn in the press's queue comes before a store of core `p` (R131, R210). -/
def Core.queuedBefore (c : Core) (p : Nat) (e : CaskEntry) : Bool := c.opaq.any fun o => match o.2 with
  | .store a => decide (a.bno < e.bno) && a.first p e
  | _ => false

/-- Whether a published store of core `p` waits: for its bank, a scrub, its way (`CaskEntry.waits`), or for an access of its own core that comes before it (R130, R131). -/
def State.storeWaits (s : State) (p : Nat) (e : CaskEntry) : Bool :=
  e.waits s || (s.core p).loadsBefore p e.cls (e.bytes.map (·.1)) e.bno || s.atomicBefore p e

/-- Whether a flush leaves a store waiting, after the `waiting` ones that it has left so. -/
def State.flushHolds (s : State) (p : Nat) (waiting : List CaskEntry) (e : CaskEntry) : Bool :=
  s.storeWaits p e || (s.core p).queuedBefore p e || waiting.any fun a => a.first p e

/-- The published stores that wait for nothing any more are performed: in issue order where they share a byte, and those of one class to the own SRAM in bundle order (R128, R130, R131, R132). -/
def flushStores (p : Nat) (s : State) : State :=
  let r := (s.core p).heldStores.foldl (fun (acc : State × List CaskEntry) e =>
    if acc.1.flushHolds p acc.2 e then (acc.1, acc.2 ++ [e]) else (performStore p e acc.1, acc.2)) (s, [])
  r.1.onCore p fun c => { c with heldStores := r.2 }

/-- The published stores of core `p` are on their way no longer: as its context is saved or reloaded, everything but what waits at a bank is performed (log 78). -/
def settleStores (p : Nat) (s : State) : State :=
  flushStores p (s.onCore p fun c => { c with heldStores := c.heldStores.map fun e => { e with visAt := 0 } })

/-- The value operation `vid` of core `p`, at `locs` in its own SRAM, has the class given (Table 6.2 lo (a)). -/
def Core.ownClass (c : Core) (p vid : Nat) (locs : List Nat) (cls : BitVec 2) : Bool :=
  locs.all (isOwnSram p) && match c.valueReq vid with
    | some v => decide (v.cls = cls)
    | none => false

/-- Whether a store that core `p` has published, that memory does not hold yet and that comes before the value operation `vid`, touches a location, or goes to the own SRAM in its class as it does (R130, R131, R132, R210). -/
def State.ownStore (s : State) (p vid : Nat) (locs : List Nat) : Bool :=
  let c := s.core p
  let before (e : CaskEntry) : Bool :=
    ((e.bytes.any fun (a, _) => locs.contains a) || (e.own p && c.ownClass p vid locs e.cls)) && !c.storeAfter vid e
  c.heldStores.any before || c.opaq.any fun o => match o.2 with
    | .store e => before e
    | _ => false

/-- The loads that wait for operation `k` take the bytes that it has written (R128), also where their segment has committed. -/
def Regs.unkeep (r : Regs) (k : Nat) (bs : List (Nat × Byte)) : Regs :=
  let drop (l : LoadInfo) : LoadInfo :=
    if l.after.contains k then
      { l with
        kept := l.kept.filter fun b => (lastByte bs b.1).isNone
        seen := l.seen.map fun (a, b) => (a, (lastByte bs a).getD b) }
    else l
  { r with pend := r.pend.map fun q => { q with load := q.load.map drop } }

/-- The core's loads that wait for operation `k` take the bytes it has written. -/
def Core.unkeep (c : Core) (k : Nat) (bs : List (Nat × Byte)) : Core :=
  { c with work := c.work.unkeep k bs, mark := c.mark.unkeep k bs, com := c.com.unkeep k bs }

/-- A load of a segment that commits while it waits at its bank takes its value as memory stands now (Table 6.2 cm, R139). -/
def LoadInfo.settle (s : State) (l : LoadInfo) : LoadInfo :=
  if !l.arrived && l.reread && l.seen.isEmpty then { l with seen := l.bytes.map fun (a, _) => (a, s.readByte a) } else l

/-- The loads that core `p` issued before bundle `bno`, whose segments have committed, have been read (R139). -/
def settleLoads (p bno : Nat) (s : State) : State :=
  let settle (q : Pending) : Pending := if q.bno < bno then { q with load := q.load.map (LoadInfo.settle s) } else q
  let regs (r : Regs) : Regs := { r with pend := r.pend.map settle }
  s.onCore p fun c => { c with work := regs c.work, mark := regs c.mark, com := regs c.com }

/-- The raw value with byte `b` at bit position `pos`. -/
def patchByte (v : Vec) (pos : Nat) (b : Byte) : Vec :=
  mergeMask (0xFF#2048 <<< pos) v (b.setWidth 2048 <<< pos)

/-- R127: a store of another class replaces, or not, each byte that a load in flight shares with it. Choice `n` of the run decides byte by byte. -/
def patchLoad (cls : BitVec 2) (bno : Nat) (bs : List (Nat × Byte)) (n : Nat) (q : Pending) : Pending × Nat :=
  match q.load with
  | none => (q, n)
  | some l =>
    if decide (l.cls = cls) || decide (bno ≤ q.bno) then (q, n)
    else
      l.bytes.foldl (fun (acc : Pending × Nat) (loc, pos) =>
        match lastByte bs loc with
        | none => acc
        | some b =>
          if Config.freeChoice acc.2 % 2 = 1 then
            ({ acc.1 with
              value := patchByte acc.1.value pos b
              load := acc.1.load.map fun l => { l with kept := (loc, b) :: l.kept } }, acc.2 + 1)
          else (acc.1, acc.2 + 1)) (q, n)

/-- `patchLoad` over every pending write of a core. -/
def patchLoads (cls : BitVec 2) (bno : Nat) (bs : List (Nat × Byte)) : Nat → List Pending → List Pending × Nat
  | n, [] => ([], n)
  | n, q :: l =>
    let a := patchLoad cls bno bs n q
    let r := patchLoads cls bno bs a.2 l
    (a.1 :: r.1, r.2)

/-- A store enters the cask (R111) and meets the loads in flight (R127). -/
def pushStore (x : Ctx) (bs : List (Nat × Byte)) (cls : BitVec 2) (entries : Nat) (ma : Bool) (s : State) : State :=
  if bs.isEmpty then s
  else
    let c := x.core s
    let after := if ma then s.waitsFor x.p (bs.map (·.1)) else []
    let e : CaskEntry := ⟨bs, cls, c.work.bno, x.slot, entries, after, 0, c.ctx.toNat, false⟩
    let r := patchLoads cls c.work.bno bs s.free c.work.pend
    let c := { c with work := { c.work with pend := r.1 }, seg := { c.seg with stores := c.seg.stores ++ [e] } }
    { (s.setCore x.p (c.touch (bs.map (·.1)))) with free := r.2 }

/-- Cask entries of a store: one per 256-byte line it touches (R111). -/
def lineCount (loc n : Nat) : Nat := (loc + (n - 1)) / 256 - loc / 256 + 1

end Sys2Proof.Machine
end

