-- ==== Sys2Proof/Machine/Frames.lean ====
section
/-! DEFINITION. The register state of routine calls: the clobber set, frames, the entry of a body, and the calls that a core takes back as its context leaves (R27 to R29, R35, R36, R265). -/

namespace Sys2Proof.Machine

/-- q0 to q7. -/
def Regs.queue (r : Regs) : List Word := (List.range 8).map fun k => r.readS (52 + k)

/-- The routine index of an RCALL (Table 2.4). -/
def rcallIndex (f : Fields) : Nat := bitsOf f.a.toNat 0 2 * 64 + f.b.toNat

/-- Flag `n` of the running code cleared, or set (R68, R99). -/
def Regs.clearFlag (r : Regs) (n : Nat) : Regs := { r with flags := r.flags &&& ~~~(1#16 <<< n) }
def Regs.setFlag (r : Regs) (n : Nat) : Regs := { r with flags := r.flags ||| (1#16 <<< n) }

/-- s24 to s31 and v40 to v47 set to zero (R27, R28, R29). -/
def Regs.zeroClobber (r : Regs) : Regs :=
  { r with
    sc := r.sc.filter fun (k, _) => !(decide (24 ≤ k) && decide (k ≤ 31))
    poison := r.poison &&& ~~~0xFF000000
    v := r.v.filter fun (k, _) => !(decide (40 ≤ k) && decide (k ≤ 47))
    vpoison := r.vpoison &&& ~~~0xFF0000000000 }

/-- Every pending write of the register state lands (R27). -/
def Core.landAll (c : Core) : Core := c.land (c.work.pend.foldl (fun n q => Nat.max n q.vis) 0)

/-- The S codes of a frame: a0 to a15 and lc0 to lc3. -/
def frameCodes (k : Nat) : Bool := decide (32 ≤ k) && decide (k ≤ 51)

/-- The frame of a call whose caller continues at `ret` (R27). -/
def Regs.frame (r : Regs) (idx n : Nat) (ret : Word) (retSpace inserted : Bool) : Frame where
  sc := r.sc.filter fun (k, _) => frameCodes k
  poison := r.poison
  atag := r.atag
  p := r.p
  g := r.g.filter fun (k, _) => decide (12 ≤ k)
  loops := r.loops
  vrb := r.vrb
  prb := r.prb
  prof := r.prof
  body := r.body
  flags := r.flags
  ret := ret
  retSpace := retSpace
  flagN := n
  brq := r.brq
  routine := idx
  inserted := inserted
  savedSc := r.sc.filter fun (k, _) => (decide (24 ≤ k) && decide (k ≤ 31)) || decide (52 ≤ k)
  savedV := r.v.filter fun (k, _) => decide (40 ≤ k) && decide (k ≤ 47)
  vpoison := r.vpoison
  savedOpar := if inserted then r.opar else none
  savedRrec := r.rrec
  savedRecov := if inserted then r.recov else none

/-- The body of routine `idx` is entered: the frame pushed, the clobber set, the body flags and the loop unit cleared, with the resume record of a level that drains, PROF taken from the header (R27, R28, R40, R120). -/
def Regs.enterBody (r : Regs) (m : Routine) (f : Frame) : Regs :=
  { r.zeroClobber with
    frames := f :: r.frames
    flags := 0
    loops := [Loop.idle, Loop.idle, Loop.idle, Loop.idle]
    rrec := none
    brq := []
    prof := m.prof
    body := true
    pc := BitVec.ofNat 64 (32 * m.offset)
    space := true }

/-- The resume record that the register state holds, its own or that of a caller whose level drains (R120, Table 15.9). -/
def Regs.drainRec (r : Regs) : Option ResumeRec := r.rrec.or (r.frames.findSome? (·.savedRrec))

/-- Whether the loop unit holds the level of a resume record (R120). -/
def ownsRec (loops : List Loop) (r : ResumeRec) : Bool :=
  let l := loops.getD r.level Loop.idle
  decide (l.start = r.start) && decide (l.stop = r.stop)

/-- A resume record given to the code whose level it is of: the frames' innermost one with that level, else the running code (R120). -/
def Regs.giveRec (r : Regs) (q : Option ResumeRec) : Regs :=
  match q with
  | none => { r with rrec := none, frames := r.frames.map fun f => { f with savedRrec := none } }
  | some q =>
    let k := if ownsRec r.loops q then none else r.frames.findIdx? fun f => ownsRec f.loops q
    { r with
      rrec := if k.isNone then some q else none
      frames := r.frames.zipIdx.map fun (f, j) => { f with savedRrec := if k = some j then some q else none } }

/-- The registers `a` with those of `b` whose numbers pass the test. -/
def mergeFile {α : Type} (test : Nat → Bool) (a b : Store α) : Store α :=
  (b.filter fun (k, _) => test k).foldl (fun m (k, v) => Store.put m k v) (a.filter fun (k, _) => !test k)

/-- q0 to q7 set to the values given, none of them poisoned. -/
def Regs.setQueue (r : Regs) (q : List Word) : Regs :=
  { r with
    sc := (List.range 8).foldl (fun m k => Store.set 0 m (52 + k) (q.getD k 0)) r.sc
    poison := r.poison &&& ~~~0x0FF0000000000000 }

/-- The registers with which a native unit starts a call: those of the body as it would be entered now, with no sticky bit of the caller (R29, R32). -/
def Core.graftRegs (c : Core) (m : Routine) (idx n : Nat) (q : List Word) (inserted : Bool) : Regs :=
  let r := (c.landAll.work).setQueue q
  { r.enterBody m (r.frame idx n (r.pc + 32) r.space inserted) with stat := 0, warn := 0, pend := [], opar := none, rrec := none, recov := none }

/-- The grafted calls that a core holds requests for: in flight, waiting to run as bodies, running as a body (R219). -/
def Core.callRequests (c : Core) : Nat :=
  (c.grafts.countP fun e => e.2.call.flag.isSome) + (c.inserts ++ c.comp.toList).countP fun i => i.flag.isSome

/-- A call that waits to run as its body, as a grafted call again: `first` is the state in which its body begins; one that has left it stands at a body mark (R265). -/
def Inserted.recalled (i : Inserted) (first : Regs) (c : Core) (cyc : Nat) : Graft :=
  let at_ := i.state.getD first
  let inBody := decide (at_.pc ≠ first.pc)
  ⟨⟨i.routine, i.q, first, i.flag, c.com.pc, c.com.space, c.com.bno⟩, inBody, false, cyc, at_, inBody, false, false⟩

/-- Grafted calls that wait as inserted bodies go back among the graft records as the context is saved; compensating runs stay (R265). -/
def Core.recallGrafts (c : Core) (routines : List Routine) (cyc : Nat) : Core :=
  let back := (c.inserts.filter fun i => i.seq.isNone).map fun i =>
    i.recalled (match routines[i.routine]? with
      | some m => c.graftRegs m i.routine 0 i.q true
      | none => c.com) c cyc
  let n := Store.nextKey c.grafts
  { c with
    inserts := c.inserts.filter fun i => i.seq.isSome
    grafts := c.grafts ++ back.zipIdx.map fun (g, k) => (n + k, g) }

end Sys2Proof.Machine
end

