-- ==== Sys2Proof/Machine/SaveArea.lean ====
section
/-! DEFINITION. The save area: its layout written and read back (R263, R264, Tables 15.8 and 15.9). -/

namespace Sys2Proof.Machine

/-- Memory with consecutive bytes from `lo` on replaced. -/
def Memory.putRange (m : Memory) (lo : Nat) (bs : List Byte) : Memory :=
  (m.filter fun (a, _) => decide (a < lo)) ++
    ((bytesAt lo bs).filter fun (_, b) => decide (b ≠ 0)) ++
    (m.filter fun (a, _) => decide (lo + bs.length ≤ a))

/-- One item of the save area: offset, size in bytes, value. -/
abbrev Item := Nat × Nat × Nat

/-- Items written at a base location. -/
def writeItems (base : Nat) (l : List Item) (m : Memory) : Memory :=
  l.foldl (fun m (off, n, v) => m.putRange (base + off) (toBytes n v)) m

/-- Whether pending record `a` stands before record `b`: by visibility, within one visibility in slot order, else as they land (R263). -/
def Pending.recordBefore (a b : Pending) : Bool :=
  decide (a.vis < b.vis) || (decide (a.vis = b.vis) && (decide (a.slot < b.slot) || (decide (a.slot = b.slot) && a.before b)))

/-- Inserts a pending write among records. -/
def insertRecord (q : Pending) : List Pending → List Pending
  | [] => [q]
  | a :: l => if a.recordBefore q then a :: insertRecord q l else q :: a :: l

/-- Pending writes in the order of their records (R263). -/
def recordOrder (l : List Pending) : List Pending := l.foldr insertRecord []

/-- What the records of pending writes have no place for. -/
def recordNotes (l : List Pending) : List RecordNote :=
  (recordOrder l).map fun q => ⟨q.tag, q.slot, (sortPend l).findIdx fun a => decide (a.id = q.id)⟩

/-- The base location of a core's save area: CTXID.SAVE through the supervisor's segment table (Table 15.1); none where the segment or the memory behind it ends before the area does (R263, R288, log 15). -/
def saveLoc (s : State) (c : Core) : Option Nat :=
  match findSeg s.supSegs c.save.toNat with
  | some g =>
    let pa := g.pbase + (c.save.toNat - g.vbase)
    if decide (c.save.toNat + 0x100000 ≤ g.vbase + g.size) && backedPA s.cxlSize pa && backedPA s.cxlSize (pa + 0xFFFFF) then some pa
    else none
  | none => none

/-- Bits of a Bool. -/
def bit (b : Bool) : Nat := if b then 1 else 0

/-- An address with its space bit (Table 15.5). -/
def spaced (pc : Word) (space : Bool) : Nat := pc.toNat ||| bit space

/-- A loop level as in LOOP (Table 15.9). -/
def loopItems (off : Nat) (l : List Loop) : List Item :=
  (List.range 4).flatMap fun n =>
    let v := l.getD n Loop.idle
    [(off + 32 * n, 8, v.start.toNat), (off + 32 * n + 8, 8, v.stop.toNat),
     (off + 32 * n + 16, 8, v.stages ||| (v.esc <<< 4) ||| (bit v.active <<< 8)), (off + 32 * n + 24, 8, 0)]

/-- BRQ (Table 15.9): bundles remaining count down to the one that issues next. -/
def brqItems (off : Nat) (l : List Redirect) : List Item :=
  (List.range 3).flatMap fun n =>
    match l[n]? with
    | some r => [(off + 16 * n, 8, r.target.toNat), (off + 16 * n + 8, 8, r.left)]
    | none => [(off + 16 * n, 8, 0), (off + 16 * n + 8, 8, 0)]

/-- RRB as a word (Table 5.2). -/
def rrbWord (vrb : BitVec 5) (prb : BitVec 3) : Nat := vrb.toNat ||| (prb.toNat <<< 8)

/-- PROFILE as a word (Table 2.8). -/
def profileWord (goff body : Bool) (prof : BitVec 2) : Nat := prof.toNat ||| (bit body <<< 2) ||| (bit goff <<< 3)

/-- MODE as a word (Table 15.3). -/
def Core.modeWord (c : Core) : Word :=
  BitVec.ofNat 64 (bit c.hzd ||| (bit c.sstep <<< 1) ||| (bit c.bke <<< 2) ||| (bit c.sup <<< 3))

/-- CTXID as a word (Table 15.1). -/
def Core.ctxidWord (c : Core) : Word := c.save ||| c.ctx.setWidth 64

/-- A register file's items: `n` registers of `size` bytes. -/
def fileItems (off size n : Nat) (f : Nat → Nat) : List Item :=
  (List.range n).map fun k => (off + size * k, size, f k)

/-- The kind, register number and data size of a pending record (R263). -/
def recordKind (d : Dest) : Nat × Nat × Nat :=
  match d with
  | .scalar c => (0, c, 8)
  | .vector k => (1, k, 256)
  | .pred k => (2, k, 8)
  | .scale n => (3, n, 64)
  | _ => (0, 0, 8)

/-- The pending records from offset `off` on, packed (R263). -/
def recordItems (bno : Nat) : Nat → List Pending → List Item
  | _, [] => []
  | off, q :: l =>
    let k := recordKind q.dest
    let land := q.load.isSome
    let w := k.1 ||| (k.2.1 <<< 8) ||| ((q.vis - bno + 1) <<< 16) ||| (bit land <<< 24) |||
      (q.stat.toNat <<< 25) ||| (bit q.poison <<< 31)
    (off, 8, w) :: (off + 8, 8, q.mask.toNat) :: (off + 16, k.2.2, q.final.toNat) ::
      recordItems bno (off + 16 + k.2.2) l

/-- A frame record under the PROFILE.GOFF of its context; its reserved bytes are zero (R263). -/
def frameItems (off : Nat) (goff : Bool) (f : Frame) : List Item :=
  [(off, 0x400, 0)] ++ fileItems off 8 16 (fun k => (Store.get 0 f.sc (32 + k)).toNat) ++
  fileItems (off + 0x80) 8 16 (fun k => if k = 0 then onesNat 64 else (Store.get 0 f.p k).toNat) ++
  fileItems (off + 0x100) 8 4 (fun k => (Store.get 0 f.sc (48 + k)).toNat) ++
  [(off + 0x120, 8, f.atag.toNat), (off + 0x128, 8, rrbWord f.vrb f.prb),
   (off + 0x130, 8, profileWord goff f.body f.prof), (off + 0x138, 8, f.flags.toNat),
   (off + 0x140, 8, spaced f.ret f.retSpace), (off + 0x148, 8, f.flagN)] ++
  brqItems (off + 0x150) f.brq ++ loopItems (off + 0x180) f.loops ++
  fileItems (off + 0x200) 128 4 (fun k => (Store.get 0 f.g (12 + k)).toNat)

/-- The frame set of a body whose registers are `r`, as a frame record holds it (R263). -/
def Regs.bodyFrame (r : Regs) : Frame :=
  ⟨r.sc, r.poison, r.atag, r.p, r.g, r.loops, r.vrb, r.prb, r.prof, r.body, 0, 0, true, 0, r.brq, 0, false, [], [], r.vpoison, none, none, none⟩

/-- A graft record (R263, R265, log 29): state 0 is released again; state 1 stands at a body mark, so many bundles into its body, with the body's frame set, its share of the clobber set, its flags and the sticky bits it has raised. -/
def graftItems (off : Nat) (g : Graft) (state start : Nat) : List Item :=
  let r := g.body
  (off, 0x1000, 0) :: [(off, 2, g.call.routine), (off + 2, 1, match g.call.flag with
    | some fl => fl.2
    | none => 0), (off + 3, 1, state)] ++
  fileItems (off + 0x40) 8 8 (fun k => (g.call.q.getD k 0).toNat) ++
  (if state = 1 then
    (off + 4, 4, r.pc.toNat / 32 - start) :: frameItems (off + 0x100) r.goff r.bodyFrame ++
    fileItems (off + 0x500) 8 8 (fun k => (r.readS (24 + k)).toNat) ++
    [(off + 0x540, 8, r.flags.toNat), (off + 0x548, 8, r.stat.toNat), (off + 0x550, 8, r.warn.toNat)] ++
    fileItems (off + 0x800) 256 8 (fun k => (Store.get 0 r.v (40 + k)).toNat)
  else [])

/-- The value of a cell, 97 bits in a 16-byte image (R263); above MAIN stand copies of its sign when it holds INT48 (R43). -/
def cellImage (c : Cell) : Nat :=
  (if c.int then signExtend 48 64 c.main.toNat else c.main.toNat) ||| (c.w0.toNat <<< 64) ||| (c.w1.toNat <<< 73) ||| (c.w2.toNat <<< 82) ||| (c.k.toNat <<< 91) |||
    (c.cnt.toNat <<< 100)

/-- A cell after ZCLR (Table 9.1). -/
def Cell.zero : Cell := ⟨0, 0, 0, 0, 0, 0, false⟩

/-- A tile after ZCLR with PEND 0 and a clean dirty bit (R264). -/
def Tile.zero : Tile := ⟨[], 0, false, []⟩

/-- Tile `t` of a core. -/
def Core.tile (c : Core) (t : Nat) : Tile := Store.get Tile.zero c.tiles t

/-- ZMASK: the dirty bits (R264). -/
def Core.zmask (c : Core) : Nat := packElems 1 ((List.range 8).map fun t => bit (c.tile t).dirty)

/-- A tile's image: 4,096 cells of 16 bytes (R263). -/
def tileItems (t : Nat) (tile : Tile) : List Item :=
  [(0x20000 + 0x10000 * t, 0x10000,
    packElems 128 ((List.range 4096).map fun k => cellImage (Store.get Cell.zero tile.cells k)))]

/-- RREC (Table 15.9). -/
def rrecItems (off : Nat) (r : Option ResumeRec) : List Item :=
  match r with
  | some r => [(off, 8, 1 ||| (r.level <<< 1) ||| (r.stages <<< 4)), (off + 8, 8, r.r), (off + 16, 8, r.start.toNat),
      (off + 24, 8, r.stop.toNat)]
  | none => [(off, 8, 0), (off + 8, 8, 0), (off + 16, 8, 0), (off + 24, 8, 0)]

/-- OPAR (Table 15.9). -/
def oparItems (off : Nat) (r : Option OparRep) : List Item :=
  match r with
  | some o => [(off, 8, o.remaining), (off + 8, 8, o.next.toNat),
      (off + 16, 8, o.tile ||| (bit o.high <<< 3) ||| (o.col <<< 4) ||| (o.fmt.toNat <<< 10)), (off + 24, 8, 0)]
  | none => [(off, 8, 0), (off + 8, 8, 0), (off + 16, 8, 0), (off + 24, 8, 0)]

/-- The save area's contents for the committed copy `r` of core `c` (R263), VALID apart. -/
def saveItems (c : Core) (r : Regs) (kind : Nat) (bskip : Bool) (trap : Nat × Nat × Nat) (grafts : List (Graft × Nat))
    (starts : List Nat) : List Item :=
  let pend := recordOrder r.pend
  [(0x000, 8, spaced r.pc r.space), (0x008, 1, kind), (0x009, 1, bit bskip), (0x00A, 1, r.frames.length),
   (0x00B, 1, grafts.length), (0x00C, 2, pend.length), (0x00E, 1, c.zmask), (0x00F, 1, 0),
   (0x010, 8, r.stat.toNat), (0x018, 8, r.warn.toNat), (0x020, 8, r.seed.toNat), (0x028, 8, r.sridx.toNat),
   (0x030, 8, rrbWord r.vrb r.prb), (0x038, 8, profileWord r.goff r.body r.prof), (0x040, 8, r.flags.toNat),
   (0x048, 8, r.rz.toNat), (0x050, 8, packElems 8 ((List.range 8).map fun t => (c.tile t).pend.toNat)),
   (0x058, 8, r.poison.toNat), (0x060, 8, r.vpoison.toNat), (0x068, 8, r.atag.toNat),
   (0x070, 8, trap.1), (0x078, 8, trap.2.1), (0x080, 8, trap.2.2)] ++
  brqItems 0x088 r.brq ++ [(0x0B8, 8, 0)] ++ loopItems 0x0C0 r.loops ++ rrecItems 0x140 r.drainRec ++
  oparItems 0x160 r.opar ++
  [(0x180, 8, match r.recov with
    | some a => a.toNat ||| 1
    | none => 0), (0x188, 0x78, 0)] ++
  (List.range 8).flatMap (fun k =>
    let v := r.comps.getD k ⟨0, 0, 0, 0⟩
    [(0x200 + 32 * k, 8, v.addr.toNat), (0x208 + 32 * k, 8, v.ctl.toNat), (0x210 + 32 * k, 8, v.value.toNat),
     (0x218 + 32 * k, 8, v.hits.toNat)]) ++
  fileItems 0x400 8 32 (fun k => (r.readS k).toNat) ++ fileItems 0x500 8 16 (fun k => (r.readS (32 + k)).toNat) ++
  fileItems 0x580 8 8 (fun k => (r.readS (52 + k)).toNat) ++ fileItems 0x5C0 8 4 (fun k => (r.readS (48 + k)).toNat) ++
  [(0x5E0, 0x20, 0)] ++ fileItems 0x600 8 16 (fun k => if k = 0 then onesNat 64 else (Store.get 0 r.p k).toNat) ++
  fileItems 0x800 128 16 (fun k => (r.readG k).toNat) ++
  fileItems 0x1000 256 48 (fun k => (Store.get 0 r.v k).toNat) ++
  fileItems 0x4000 64 8 (fun k => (r.readE k).toNat) ++
  (List.range r.frames.length).flatMap (fun k =>
    match r.frames.reverse[k]? with
    | some f => frameItems (0x5000 + 0x400 * k) r.goff f
    | none => []) ++
  (List.range grafts.length).flatMap (fun k =>
    match grafts[k]? with
    | some g => graftItems (0x6000 + 0x1000 * k) g.1 g.2 (starts.getD k 0)
    | none => []) ++
  recordItems r.bno 0xA000 pend ++
  (List.range 8).flatMap fun t => if (c.tile t).dirty then tileItems t (c.tile t) else []

/-- The reserved offsets of the save area outside its records: they are written as zero (R263, Tables 15.8 and 15.9). -/
def savedZero (off : Nat) : Bool :=
  let within (lo hi : Nat) : Bool := decide (lo ≤ off) && decide (off < hi)
  within 0x300 0x400 || within 0x680 0x800 || within 0x4200 0x5000 || within 0x14000 0x20000 || within 0xA0000 0x100000

/-- The routine-store bundles at which the bodies of the calls that a save records begin. -/
def recordStarts (s : State) (c : Core) (grafts : List (Graft × Nat)) : List Nat :=
  grafts.map fun g => match (Store.find? s.images c.image).bind fun i => i.routines[g.1.call.routine]? with
    | some m => m.offset
    | none => 0

/-- Writes core `p`'s save area with the committed copy `r`, VALID last (R265); where no segment maps the area nothing is written (log 15). A granule wholly written is no longer poisoned (R310), and the marks of zero blocks follow (R305). -/
def writeSave (s : State) (p : Nat) (r : Regs) (kind : Nat) (bskip : Bool) (trap : Nat × Nat × Nat)
    (grafts : List (Graft × Nat)) : State :=
  let c := s.core p
  match saveLoc s c with
  | none => s
  | some base =>
    let items := saveItems c r kind bskip trap grafts (recordStarts s c grafts)
    let inArea (a : Nat) : Bool := decide (base ≤ a) && decide (a < base + 0x100000)
    let wrote (a : Nat) : Bool :=
      inArea a && (savedZero (a - base) || items.any fun (off, n, _) => decide (base + off ≤ a) && decide (a < base + off + n))
    let m := writeItems base [(0x009, 1, bit bskip ||| 2)]
      (writeItems base items (s.mem.filter fun (a, _) => !(inArea a && savedZero (a - base))))
    let zero (z : Nat) : Bool := !m.any fun (a, _) => decide (a / 256 * 256 = z)
    let opar : Nat × BitVec 32 := match r.opar with
      | some o => (o.addrReg, o.lit)
      | none => (0, 0)
    { s with
      mem := m
      poisoned := s.poisoned.filter fun g => !(List.range (granule g)).all fun k => wrote (g + k)
      zeroBlocks := (s.zeroBlocks.filter fun z => !(inArea z && !zero z)) ++
        ((List.range 0x1000).map fun k => base + 256 * k).filter fun z =>
          decide (z < 0x8000000000) && zero z && (List.range 256).all (fun k => wrote (z + k)) && !s.zeroBlocks.contains z
      extras := Store.put s.extras base ⟨c.value, c.heldValue, c.valueBack, opar.1, opar.2, r.frames, c.async, c.comp,
        grafts.map fun g => (g.1.call.flag.map (·.1), g.1.body), recordNotes r.pend,
        c.tiles.map (fun (t, z) => (t, z.lost, z.cells.filterMap fun (k, q) => if q.int then some k else none)), none⟩ }

/-- Number `off`, `n` bytes, of the save area at `base`. -/
def areaNat (s : State) (base off n : Nat) : Nat := s.readNat (base + off) n

/-- A register file read back. -/
def areaFile (s : State) (base off size n key : Nat) (w : Nat) : Store (BitVec w) :=
  (List.range n).foldl (fun m k => Store.set 0 m (key + k) (BitVec.ofNat w (areaNat s base (off + size * k) size))) []

/-- Descriptor registers read back: their reserved bits read as zero (R76, Table 4.7). -/
def descMask : Desc := ~~~((BitVec.allOnes 1024 <<< 808) ||| (0xFF#1024 <<< 136))
def areaDescs (s : State) (base off n key : Nat) : Store Desc :=
  (List.range n).foldl (fun m k => Store.set 0 m (key + k) (BitVec.ofNat 1024 (areaNat s base (off + 128 * k) 128) &&& descMask)) []

/-- Loop counters read back: 32 bits each (Table 4.6). -/
def areaCounters (s : State) (base off : Nat) : Store Word :=
  (List.range 4).foldl (fun m k => Store.set 0 m (48 + k) (BitVec.ofNat 64 (areaNat s base (off + 8 * k) 4))) []

/-- Loop levels read back. -/
def areaLoops (s : State) (base off : Nat) : List Loop :=
  (List.range 4).map fun n =>
    let w := areaNat s base (off + 32 * n + 16) 8
    ⟨BitVec.ofNat 64 (areaNat s base (off + 32 * n) 8), BitVec.ofNat 64 (areaNat s base (off + 32 * n + 8) 8),
      bitsOf w 0 4, bitsOf w 4 4, w.testBit 8⟩

/-- Pending redirects read back; a zero count is an empty entry. -/
def areaBrq (s : State) (base off : Nat) : List Redirect :=
  (List.range 3).filterMap fun n =>
    let left := areaNat s base (off + 16 * n + 8) 8
    if left = 0 then none
    else some ⟨BitVec.ofNat 64 (areaNat s base (off + 16 * n) 8), left, BitVec.ofNat 64 (areaNat s base 0 8)⟩

/-- Pending records read back: `n` of them from `off` on, the first with number `k`; the resume bundle is number `bno`. A record keeps the slot, the place in the order of landing, and, where it is one of an address register, the tag of the one that was saved in its place. -/
def areaRecords (s : State) (base bno : Nat) (notes : List RecordNote) : Nat → Nat → Nat → List Pending
  | 0, _, _ => []
  | n + 1, k, off =>
    let w := areaNat s base off 8
    let kind := bitsOf w 0 8
    let reg := bitsOf w 8 8
    let size := if kind = 1 then 256 else if kind = 3 then 64 else 8
    let dest : Dest := match kind with
      | 0 => if reg = 0 then .nothing else .scalar reg
      | 1 => .vector reg
      | 2 => .pred reg
      | 3 => .scale reg
      | _ => .nothing
    let note := notes.getD k ⟨none, 1, k⟩
    ⟨note.rank, bno + bitsOf w 16 8 - 1, bno - 1, note.slot, dest, BitVec.ofNat 2048 (areaNat s base (off + 16) size),
      BitVec.ofNat 64 (areaNat s base (off + 8) 8), w.testBit 31,
      if decide (kind = 0) && decide (32 ≤ reg) && decide (reg ≤ 47) then note.tag else none, BitVec.ofNat 6 (bitsOf w 25 6), 0,
      if w.testBit 24 then some ⟨[], 0, .zero, true, true, 0, [], false, false, false, 0, false, [], .plain, 0, []⟩ else none, s.cyc.toNat⟩ ::
      areaRecords s base bno notes n (k + 1) (off + 16 + size)

/-- A frame record read back; what the layout has no place for comes from `x`, the routine it returns from is `idx`. -/
def areaFrame (s : State) (base off idx : Nat) (x : Option Frame) : Frame :=
  let rrb := areaNat s base (off + 0x128) 8
  let prof := areaNat s base (off + 0x130) 8
  let ret := areaNat s base (off + 0x140) 8
  { sc := areaFile s base off 8 16 32 64 ++ areaCounters s base (off + 0x100)
    poison := match x with
      | some f => f.poison
      | none => 0
    atag := BitVec.ofNat 32 (areaNat s base (off + 0x120) 8)
    p := Store.erase (areaFile s base (off + 0x80) 8 16 0 64) 0
    g := areaDescs s base (off + 0x200) 4 12
    loops := areaLoops s base (off + 0x180)
    vrb := BitVec.ofNat 5 (bitsOf rrb 0 5)
    prb := BitVec.ofNat 3 (bitsOf rrb 8 3)
    prof := BitVec.ofNat 2 (bitsOf prof 0 2)
    body := prof.testBit 2
    flags := BitVec.ofNat 16 (areaNat s base (off + 0x138) 8)
    ret := BitVec.ofNat 64 (ret / 32 * 32)
    retSpace := ret.testBit 0
    flagN := areaNat s base (off + 0x148) 8
    brq := areaBrq s base (off + 0x150)
    routine := idx
    inserted := match x with
      | some f => f.inserted
      | none => false
    savedSc := match x with
      | some f => f.savedSc
      | none => []
    savedV := match x with
      | some f => f.savedV
      | none => []
    vpoison := match x with
      | some f => f.vpoison
      | none => 0
    savedOpar := x.bind (·.savedOpar)
    savedRrec := x.bind (·.savedRrec)
    savedRecov := x.bind (·.savedRecov) }

/-- The routine that an RCALL with flag `n` in a bundle calls (R27). -/
def calledBy (b : Bundle) (n : Nat) : Option Nat :=
  match decodeSlot 4 (bundleWord b 4) with
  | .ok (.rcall f) => if (cleanFields (.rcall f) f).d.toNat = n then some (rcallIndex (cleanFields (.rcall f) f)) else none
  | _ => none

/-- The routines that a call with flag `n`, whose caller goes on at `ret` with the loop levels `loops`, may have entered (R27): that of an RCALL in the bundle before, or in the last bundle of a loop body that begins there (R100); else those of the space's other RCALLs, which a branch may lead away from (R96). -/
def Image.calledBefore (i : Image) (ret n : Nat) (space : Bool) (loops : List Loop) : List Nat × List Nat :=
  let code := if space then i.store else i.text
  let at_ (a : Nat) : Option Nat := calledBy (Store.get 0 code (a / 32)) n
  let ends := loops.filterMap fun l => if l.start.toNat = ret then at_ l.stop.toNat else none
  ((at_ (ret - 32)).toList ++ ends, (code.filterMap fun (_, b) => calledBy b n).eraseDups)

/-- The routine whose body an address of the routine store lies in, or at whose end it stands (R34): the first of `hints` that fits, since the end of one body may be the start of another; else the only one of `calls` that fits. The address after an RCALL (`after`) is never the start of the body that holds it. -/
def routineAt (rs : List Routine) (hints calls : List Nat) (after : Bool) (pc : Nat) : Nat :=
  let lo (r : Routine) : Nat := 32 * r.offset
  let hi (r : Routine) : Nat := 32 * (r.offset + r.len)
  let fits (r : Routine) : Bool := decide (lo r ≤ pc) && decide (pc ≤ hi r)
  let inside (r : Routine) : Bool := fits r && (if after then decide (lo r < pc) else decide (pc < hi r))
  let known (k : Nat) : Bool := match rs[k]? with
    | some r => fits r
    | none => false
  match hints.find? known, calls.filter known with
  | some k, _ => k
  | none, [k] => k
  | none, _ => match rs.findIdx? inside with
    | some k => k
    | none => (rs.findIdx? fits).getD 0

/-- The register state that a save area at `base` holds (R262, R263). -/
def readSave (s : State) (base bno : Nat) (image : Image) (old : Regs) : Regs :=
  let rrb := areaNat s base 0x030 8
  let prof := areaNat s base 0x038 8
  let depth := areaNat s base 0x00A 1
  let rrec := areaNat s base 0x140 8
  let opar := areaNat s base 0x160 8
  let ow := areaNat s base 0x170 8
  let recov := areaNat s base 0x180 8
  let resume := areaNat s base 0 8
  let x := Store.find? s.extras base
  let fr : List Frame := match x with
    | some e => e.frames
    | none => []
  let q : Option ResumeRec := if rrec.testBit 0 then
      some ⟨bitsOf rrec 1 2, bitsOf rrec 4 4, areaNat s base 0x148 8, BitVec.ofNat 64 (areaNat s base 0x150 8),
        BitVec.ofNat 64 (areaNat s base 0x158 8)⟩ else none
  Regs.giveRec (q := q)
  { sc := Store.erase (areaFile s base 0x400 8 32 0 64) 0 ++ areaFile s base 0x500 8 16 32 64 ++
      areaCounters s base 0x5C0 ++ areaFile s base 0x580 8 8 52 64
    poison := BitVec.ofNat 64 (areaNat s base 0x058 8)
    atag := BitVec.ofNat 32 (areaNat s base 0x068 8)
    v := areaFile s base 0x1000 256 48 0 2048
    vpoison := BitVec.ofNat 64 (areaNat s base 0x060 8)
    e := areaFile s base 0x4000 64 8 0 512
    p := Store.erase (areaFile s base 0x600 8 16 0 64) 0
    g := areaDescs s base 0x800 16 0
    flags := BitVec.ofNat 16 (areaNat s base 0x040 8)
    stat := BitVec.ofNat 6 (areaNat s base 0x010 8)
    warn := BitVec.ofNat 7 (areaNat s base 0x018 8)
    seed := BitVec.ofNat 64 (areaNat s base 0x020 8)
    sridx := BitVec.ofNat 64 (areaNat s base 0x028 8)
    vrb := BitVec.ofNat 5 (bitsOf rrb 0 5)
    prb := BitVec.ofNat 3 (bitsOf rrb 8 3)
    goff := prof.testBit 3
    body := prof.testBit 2
    prof := BitVec.ofNat 2 (bitsOf prof 0 2)
    loops := areaLoops s base 0x0C0
    opar := if opar = 0 then none else
      some ⟨opar, BitVec.ofNat 64 (areaNat s base 0x168 8), bitsOf ow 0 3, ow.testBit 3, bitsOf ow 4 6,
        BitVec.ofNat 4 (bitsOf ow 10 4), match x with
          | some e => e.oparReg
          | none => 0, match x with
          | some e => e.oparLit
          | none => 0⟩
    frames := ((List.range depth).map fun k =>
      let ret (j : Nat) : Nat := areaNat s base (0x5000 + 0x400 * j + 0x140) 8
      let last := decide (k + 1 = depth)
      let inner := if last then resume else ret (k + 1)
      let off := 0x5000 + 0x400 * k
      let calls := image.calledBefore (ret k / 32 * 32) (areaNat s base (off + 0x148) 8) ((ret k).testBit 0) (areaLoops s base (off + 0x180))
      let hints := (fr.reverse[k]?).toList.map (·.routine) ++ calls.1
      areaFrame s base off (routineAt image.routines hints calls.2 (!last) (inner / 32 * 32)) (fr.reverse[k]?)).reverse
    rz := BitVec.ofNat 64 (areaNat s base 0x048 8)
    pend := areaRecords s base bno (match x with
      | some e => e.recs
      | none => []) (areaNat s base 0x00C 2) 0 0xA000
    brq := areaBrq s base 0x088
    rrec := none
    recov := if recov.testBit 0 then some (BitVec.ofNat 64 (recov / 32 * 32)) else none
    pc := BitVec.ofNat 64 (resume / 32 * 32)
    space := resume.testBit 0
    bno := bno
    lastPc := old.lastPc
    lastSpace := old.lastSpace
    comps := (List.range 8).map fun k =>
      ⟨BitVec.ofNat 64 (areaNat s base (0x200 + 32 * k) 8), BitVec.ofNat 64 (bitsOf (areaNat s base (0x208 + 32 * k) 8) 0 22),
        BitVec.ofNat 64 (areaNat s base (0x210 + 32 * k) 8), BitVec.ofNat 64 (areaNat s base (0x218 + 32 * k) 8)⟩ }

/-- A tile read back: marked tiles from their images, with the cells that were lost as the area was written, which no ZCLR or ZLD has covered since (R312), and bits 63:48 of an image ignored (R43); the others as after ZCLR (R264). -/
def areaTile (s : State) (base t zmask : Nat) (note : List Nat × List Nat) : Tile :=
  if zmask.testBit t then
    let cells := (List.range 4096).foldl (fun (m : Store Cell) k =>
      let w := areaNat s base (0x20000 + 0x10000 * t + 16 * k) 16
      Store.set Cell.zero m k ⟨BitVec.ofNat 48 (bitsOf w 0 48), BitVec.ofNat 9 (bitsOf w 64 9),
        BitVec.ofNat 9 (bitsOf w 73 9), BitVec.ofNat 9 (bitsOf w 82 9), BitVec.ofNat 9 (bitsOf w 91 9),
        BitVec.ofNat 13 (bitsOf w 100 13), note.2.contains k⟩) []
    ⟨cells, BitVec.ofNat 6 (areaNat s base (0x050 + t) 1), true, note.1⟩
  else Tile.zero

/-- The eight tiles that a save area gives. -/
def readTiles (s : State) (base : Nat) : Store Tile :=
  let zmask := areaNat s base 0x00E 1
  let note (t : Nat) : List Nat × List Nat := match Store.find? s.extras base with
    | some e => Store.get ([], []) e.cells t
    | none => ([], [])
  (List.range 8).map fun t => (t, areaTile s base t zmask (note t))

/-- The offset at which `n` packed records from `off` on end (R263). -/
def recordsEnd (s : State) (base : Nat) : Nat → Nat → Nat
  | 0, off => off
  | n + 1, off => recordsEnd s base n (off + 16 + match areaNat s base off 1 with
    | 1 => 256
    | 3 => 64
    | _ => 8)

/-- Whether what a reload reads of a save area is uncorrectable: the header, the register files, and as many frames, graft records, records and tile images as the header counts (R263, R310). -/
def areaLost (s : State) (base : Nat) : Bool :=
  let reads (off : Nat) : Bool :=
    if off < 0x5000 then !savedZero off
    else if off < 0x6000 then decide ((off - 0x5000) / 0x400 < areaNat s base 0x00A 1)
    else if off < 0xA000 then decide ((off - 0x6000) / 0x1000 < areaNat s base 0x00B 1)
    else if off < 0x20000 then decide (off < recordsEnd s base (Nat.min 128 (areaNat s base 0x00C 2)) 0xA000)
    else decide (off < 0xA0000) && (areaNat s base 0x00E 1).testBit ((off - 0x20000) / 0x10000)
  s.poisoned.any fun g => (List.range (granule g)).any fun k => decide (base ≤ g + k) && decide (g + k < base + 0x100000) && reads (g + k - base)

/-- Whether a save area may be resumed: KIND, DEPTH, GRAFTS and NREC within their ranges (R262). -/
def saveOk (s : State) (base : Nat) : Bool :=
  decide (areaNat s base 0x008 1 ≤ 4) && decide (areaNat s base 0x00A 1 ≤ 4) && decide (areaNat s base 0x00B 1 ≤ 4) &&
    decide (areaNat s base 0x00C 2 ≤ 128)

/-- The registers of a body with the frame set `f`: what a frame record holds of them (R263). -/
def Regs.withFrameSet (r : Regs) (f : Frame) : Regs :=
  { r with
    sc := f.sc.foldl (fun m (k, v) => Store.put m k v) (r.sc.filter fun (k, _) => !(decide (32 ≤ k) && decide (k ≤ 51)))
    atag := f.atag
    p := f.p
    g := r.g.filter (fun (k, _) => decide (k < 12)) ++ f.g
    loops := f.loops
    vrb := f.vrb
    prb := f.prb
    prof := f.prof
    body := f.body
    brq := f.brq }

/-- The registers of a graft record that stopped at a body mark, over those of its context or of the model's own note `r` (R263, R265): everything that the record holds, edits of a handler included. -/
def areaBody (s : State) (base off start : Nat) (r : Regs) : Regs :=
  let r := r.withFrameSet (areaFrame s base (off + 0x100) 0 none)
  let s24 := areaFile s base (off + 0x500) 8 8 24 64
  let q := areaFile s base (off + 0x40) 8 8 52 64
  let v40 := areaFile s base (off + 0x800) 256 8 40 2048
  let other (k : Nat) : Bool := decide (k < 24) || (decide (32 ≤ k) && decide (k < 52))
  { r with
    sc := (s24 ++ q).foldl (fun m (k, v) => Store.put m k v) (r.sc.filter fun (k, _) => other k)
    v := r.v.filter (fun (k, _) => decide (k < 40)) ++ v40
    flags := BitVec.ofNat 16 (areaNat s base (off + 0x540) 8)
    stat := BitVec.ofNat 6 (areaNat s base (off + 0x548) 8)
    warn := BitVec.ofNat 7 (areaNat s base (off + 0x550) 8)
    pc := BitVec.ofNat 64 (32 * (start + areaNat s base (off + 4) 4))
    space := true }

/-- A graft record as it is read: routine, flag, state, q0 to q7 and the offset of the record. -/
structure GraftRecord where
  routine : Nat
  flag : Nat
  state : Nat
  q : List Word
  off : Nat
  deriving DecidableEq, Repr

/-- The graft records of a save area. -/
def readGrafts (s : State) (base : Nat) : List GraftRecord :=
  (List.range (areaNat s base 0x00B 1)).map fun k =>
    let off := 0x6000 + 0x1000 * k
    ⟨areaNat s base off 2, areaNat s base (off + 2) 1, areaNat s base (off + 3) 1,
      (List.range 8).map fun j => BitVec.ofNat 64 (areaNat s base (off + 0x40 + 8 * j) 8), off⟩

end Sys2Proof.Machine
end

