-- ==== Sys2Proof/Machine/Ops.lean ====
section
/-! DEFINITION. The shared operations over a core: raising and taking a trap, returning from one, marks, rollback (R107 to R116, R256 to R262). -/

namespace Sys2Proof.Machine

/-- The die of a core, a cluster's cores and the like: physical numbering (R8). -/
def dieOf (p : Nat) : Nat := p / 160

/-- The lifetime data of a die that has none listed. -/
def Lifetime.fresh : Lifetime := ⟨0, 0, 4, 32, [], [], [], [], [], [], [], [], [], 2 ^ 42, []⟩

/-- The lifetime data of a die. -/
def State.lifeOf (s : State) (die : Nat) : Lifetime := Store.get Lifetime.fresh s.life die

/-- Lifetime counter `k` of a die raised by `n`: 0 to 15 are those of Table 18.4 in its order, 16 + c are the rollbacks of core c of the die (Table 18.5). -/
def countLife (s : State) (die k n : Nat) : State :=
  let l := s.lifeOf die
  { s with life := Store.put s.life die { l with counters := Store.set 0 l.counters k (Store.get 0 l.counters k + n) } }

/-- Counter `k` of a die's counter block, at offset 8·k, is raised by 1; it saturates (R335). -/
def countDie (s : State) (die k : Nat) : State :=
  let b := Store.get [] s.counters die
  let v := Store.get 0 b k
  { s with counters := Store.put s.counters die (Store.set 0 b k (if v = allOnes64 then v else v + 1)) }

/-- Cause codes (Table 15.6). -/
def causeIllegal : Nat := 0x01
def causeConflict : Nat := 0x02
def causeSegv : Nat := 0x03
def causePerm : Nat := 0x04
def causeMisalign : Nat := 0x05
def causePoison : Nat := 0x06
def causeUncorrectable : Nat := 0x07
def causeMismatch : Nat := 0x08
def causeOverrun : Nat := 0x09
def causeBreak : Nat := 0x0A
def causeSoft : Nat := 0x0B
def causePriv : Nat := 0x0C
def causeCompfail : Nat := 0x0D
def causeEntangled : Nat := 0x0E
def causeYieldOverrun : Nat := 0x0F
def causeHazard : Nat := 0x10
def causeDepth : Nat := 0x11

/-- TINFO of SUB 0: the slot index and, for a per-lane form, the lane (Table 15.7). -/
def slotInfo (slot lane : Nat) : Word := BitVec.ofNat 64 (slot ||| (lane <<< 8))

/-- A synchronous trap of the bundle being issued: the first one raised, in slot order, stands (log 11). -/
def raiseAt (p cause sub : Nat) (info : Word) (s : State) : State :=
  s.onCore p fun c =>
    match c.sync with
    | some _ => c
    | none => { c with sync := some ⟨cause, sub, c.work.pc, c.work.space, info⟩ }

/-- A synchronous trap of SUB 0 in the slot. -/
def raise (x : Ctx) (cause : Nat) (s : State) : State := raiseAt x.p cause 0 (slotInfo x.slot 0) s

/-- A failing access check traps with its cause (R126). -/
def raiseAcc (x : Ctx) (e : AccFault) (s : State) : State := raise x e.cause s

/-- POISON_USE if a source is poisoned, else the effect (R152, R184). -/
def unlessPoisoned (x : Ctx) (b : Bool) (k : State → State) (s : State) : State :=
  if b then raise x causePoison s else k s

/-- Commands and grafted calls that a segment has reserved requests for (R219). -/
def Segment.reservations (g : Segment) : Nat :=
  (g.effects.filter fun e => match e with
    | .command _ | .graft _ => true
    | _ => false).length

/-- The uncommitted segments discarded: the committed copy replaces the other two (R116); a core that had reached its end issues again. -/
def Core.discard (c : Core) : Core :=
  let held := c.seg.reservations + (match c.pending with
    | some g => g.reservations
    | none => 0)
  { c with
    work := c.com
    mark := c.com
    seg := Segment.opened c.com.pc c.com.space
    pending := none
    reserved := c.reserved - held
    run := if c.run = .ending then .running else c.run
    markAfter := false
    skipTo := none
    enter := none
    callQ := none
    merged := false
    srUsed := 0
    sync := none
    breakNow := none }

/-- A rollback: every uncommitted segment is discarded and issue restarts 8 cycles later, once the committed copy has been checked (R116, R312); 64 in a row raise a service event (R309). -/
def rollback (s : State) (p : Nat) : State :=
  let c := s.core p
  let n := c.rolls + 1
  let t := s.cyc.toNat + 8
  let s := s.setCore p { c.discard with rolls := n, restarting := true, holdUntil := t, turnAt := t, repAt := t
                                        grafts := c.grafts.map fun (k, g) => (k, { g with stopped := false }) }
  let s := countLife (countLife s (dieOf p) 1 1) (dieOf p) (16 + p % 160) 1
  if n % 64 = 0 then { countLife s (dieOf p) 13 1 with outbox := s.outbox ++ [.rollbackService p] } else s

/-- Loads of bundle number `bno` at an address that can have no data come back with a value that the spec does not give, each its own free one (R116, log 73). -/
def Regs.giveUp (r : Regs) (free bno : Nat) (pc : Word) : Regs :=
  let lost (q : Pending) : Pending := match q.load with
    | some l =>
      if decide (q.bno = bno) && decide (l.pc = pc) && !l.arrived then
        { q with value := BitVec.ofNat 2048 (Config.freeChoice (free + q.slot)), load := some { l with arrived := true } }
      else q
    | none => q
  { r with pend := r.pend.map lost }

/-- UNCORRECTABLE at a bundle whose data stays uncorrectable: where it lies in the closed segment, both segments are discarded; a load that only the committed copy awaits comes back with a free value (R116, R259). -/
def Core.uncorrectable (c : Core) (free bno : Nat) (pc : Word) (space : Bool) (slot lane : Nat) : Core :=
  let c := if c.pending.isSome && decide (bno < c.mark.bno) then c.discard else c
  { c with
    work := c.work.giveUp free bno pc
    mark := c.mark.giveUp free bno pc
    com := c.com.giveUp free bno pc
    sync := some ⟨causeUncorrectable, 0, pc, space, slotInfo slot lane⟩ }

/-- Uncorrectable data is consumed at a bundle: a rollback, and at the second consumption at one bundle the trap UNCORRECTABLE (R116), which names the lane of a per-lane form (Table 15.7). -/
def consume (s : State) (p bno : Nat) (pc : Word) (space : Bool) (slot lane : Nat) : State :=
  if (s.core p).badRec = some (pc, space) then
    { (s.onCore p fun c => c.uncorrectable s.free bno pc space slot lane) with free := s.free + 8 }
  else (rollback s p).onCore p fun c => { c with badRec := some (pc, space) }

/-- The address register of an OPAR whose last repetition has issued takes its final value at bundle `vis` (R212). -/
def Regs.finishOpar (r : Regs) (vis : Nat) : Regs :=
  match r.opar with
  | some o =>
    if o.remaining = 0 then
      { r with
        opar := none
        pend := r.pend ++ [⟨r.nextId, vis, r.bno, 4, .scalar o.addrReg, o.next.setWidth 2048, allOnes64, false, none, 0, 0, none, 0⟩] }
    else r
  | none => r

/-- A mark: the open segment closes, the mark copy is taken, a new segment opens (R107, Table 5.4). -/
def Core.closeSeg (c : Core) (cyc : Nat) : Core :=
  { c with
    mark := c.work.finishOpar (c.work.bno + 1)
    pending := some { c.seg with closedAt := cyc }
    seg := Segment.opened c.work.pc c.work.space }

/-- Whether a load of the register state has yet to arrive (R265). -/
def Regs.owed (r : Regs) : Bool :=
  r.pend.any fun q => match q.load with
    | some l => !l.arrived
    | none => false

/-- Operations that a save cancels and a resumption performs again (R153). -/
def ValueOp.waits : ValueOp → Bool
  | .waitb _ _ _ _ | .acte _ _ => true
  | _ => false

/-- No step-grade graft of the core is on its way to its next final body mark (R265 step 3). -/
def Core.graftsStopped (c : Core) : Bool := c.grafts.all fun (_, g) => !(g.step && g.started) || g.stopped || g.faulted

/-- Whether every segment before the open one has committed and what a save waits for has come (R259, R265). -/
def Core.readyToSave (c : Core) : Bool :=
  c.pending.isNone && c.opaq.isEmpty && c.graftsStopped && !c.com.owed && (c.value.all fun v => v.op.waits) &&
    c.heldValue.all fun v => v.op.waits || c.valueBack.any fun b => decide (b.1 = v.vid)

/-- A hard pre-emption is requested. -/
def Core.hardAsked (c : Core) : Bool := match c.preempt with
  | .hard _ => true
  | _ => false

/-- A trap may be taken now: the context can be saved, and no hard pre-emption comes before it (R260). -/
def Core.trapsNow (c : Core) : Bool := c.readyToSave && !c.hardAsked

/-- The graft records of a save: a whole-grade graft, and one that no unit has accepted, are released again with state 0; a step-grade one stands at its body mark with state 1 (R35, R36, R265). -/
def Core.graftRecords (c : Core) : List (Graft × Nat) :=
  c.grafts.map fun (_, g) => (g, bit (g.step && (g.started || g.resumed)))

/-- Released operations of core `p` report to its save area from now on (R224); a wait in progress is cancelled (R153). -/
def detachOps (s : State) (p : Nat) : State :=
  let area := match saveLoc s (s.core p) with
    | some b => b
    | none => 0
  { s with
    waits := s.waits.filter fun w => decide (w.core ≠ p)
    ops := s.ops.map fun (k, o) =>
      if decide (o.core = p) && o.savedAt.isNone then (k, { o with savedAt := some area }) else (k, o) }

/-- Released operations that report to the area at `base` belong to core `p` again (R262). -/
def attachOps (s : State) (p base : Nat) : State :=
  { s with ops := s.ops.map fun (k, o) =>
      if o.savedAt = some base then (k, { o with savedAt := none, core := p, cmd := { o.cmd with bno := 0 } }) else (k, o) }

/-- The trap registers as words (Tables 15.4, 15.5). -/
def TrapRec.causeWord (t : TrapRec) : Word := BitVec.ofNat 64 (t.cause ||| (t.sub <<< 8))
def TrapRec.pcWord (t : TrapRec) : Word := BitVec.ofNat 64 (spaced t.pc t.space)

/-- TCAUSE, TPC and TINFO take the trap's values. -/
def Core.setTrap (c : Core) (t : TrapRec) : Core :=
  { c with tcause := t.causeWord, tpc := t.pcWord, tinfo := t.info }

/-- The register state that a handler starts with: the committed copy without its pending writes, loops, frames and flags (R261). -/
def handlerRegs (r : Regs) (svec : Word) : Regs :=
  { r with
    pend := []
    loops := [Loop.idle, Loop.idle, Loop.idle, Loop.idle]
    frames := []
    flags := 0
    brq := []
    opar := none
    rrec := none
    recov := none
    pc := svec
    space := false }

/-- A trap that no handler takes: KIND 4 goes into the header, the core stops and reports (R261). -/
def stopCore (s : State) (p : Nat) (t : TrapRec) : State :=
  let c := s.core p
  let s := match saveLoc s c with
    | some base => s.writeNat (base + 8) 1 4
    | none => s
  let c := { c.discard with run := .stopped }
  { s.setCore p (c.setTrap t) with outbox := s.outbox ++ [.coreStopped p] }

/-- The image a core runs. -/
def State.imageOf (s : State) (c : Core) : Image :=
  Store.get ⟨0, 0, [], 0, 0, 0, [], [], 0, 2, false⟩ s.images c.image

/-- TAKING AN EXCEPTION (R259, R261). The open segment is discarded; the context is saved with RESUME at the committed state's bundle; TCAUSE, TPC and TINFO are set; supervisor level is entered and issue starts at SVEC, opening a new segment. A trap at supervisor level or without a handler stops the core. -/
def takeTrap (s : State) (p : Nat) (bskip : Bool) (t : TrapRec) : State :=
  let c := s.core p
  if c.sup || decide (c.svec = 0) then stopCore s p t
  else
    let s := settleStores p (s.setCore p (c.discard.recallGrafts (s.imageOf c).routines s.cyc.toNat))
    let c := s.core p
    let s := writeSave s p c.com 0 (bskip || c.bskip) (t.causeWord.toNat, t.pcWord.toNat, t.info.toNat) c.graftRecords
    let s := detachOps s p
    let r := handlerRegs c.com c.svec
    s.onCore p fun c =>
      { (c.setTrap t) with
        work := r
        mark := r
        com := r
        seg := Segment.opened c.svec false
        reserved := c.reserved - c.callRequests
        callQ := none
        sup := true
        run := .running
        grafts := []
        value := []
        heldValue := []
        valueBack := []
        async := []
        comp := none
        bskip := false }

/-- The address lies in the loaded .text or routine store that its space names, or is the end that issue there reaches (R28, R180, R262). -/
def Image.holds (i : Image) (pc : Word) (space : Bool) : Bool :=
  if space then (Store.find? i.store (pc.toNat / 32)).isSome || i.routines.any fun r => decide (pc.toNat = 32 * (r.offset + r.len))
  else decide (pc.toNat / 32 < i.textLen) || decide (pc.toNat = i.stop)

/-- The registers with which a graft record's body is entered from those of its context (R27, R265). -/
def GraftRecord.entry (g : GraftRecord) (m : Routine) (r : Regs) : Regs :=
  { (r.setQueue g.q).enterBody m ((r.setQueue g.q).frame g.routine g.flag r.pc r.space false) with
    stat := 0
    warn := 0
    pend := []
    opar := none
    rrec := none
    recov := none }

/-- The model's note of the call that a graft record names, where the record still names the call that was saved in its place (R262, R263). -/
def GraftRecord.note (g : GraftRecord) (n : Option (Option Nat × Regs)) : Option (Option Nat × Regs) :=
  n.filter fun n => match n.2.frames with
    | f :: _ => decide (f.routine = g.routine)
    | [] => false

/-- The grafts that a save area's records give back: one of state 1 goes on from its body mark, one of state 0 is released again from the start of its body (R265). What a record does not hold comes from the model's note of the call, else from the context's registers. -/
def restoredGrafts (s : State) (base : Nat) (routines : List Routine) (bodies : List (Option Nat × Regs)) (r : Regs) : List Graft :=
  (readGrafts s base).zipIdx.map fun (g, k) =>
    let note := g.note bodies[k]?
    let first : Regs := match routines[g.routine]? with
      | some m => g.entry m r
      | none => r
    let start := first.pc.toNat / 32
    let old : Regs := match note with
      | some n => n.2
      | none => first
    let body := if g.state = 1 then areaBody s base g.off start old
      else if old.pc = first.pc then old.setQueue g.q else first
    let flag := match note with
      | some n => n.1.map fun d => (d, g.flag)
      | none => some (r.frames.length, g.flag)
    ⟨⟨g.routine, g.q, body, flag, r.pc, r.space, r.bno⟩, decide (g.state = 1), false, s.cyc.toNat, body, decide (g.state = 1), false, false⟩

/-- The next sequence number of an agent, and the state in which it is taken (R143). -/
def takeSeq (agent : Nat) (s : State) : Nat × State :=
  let n := Store.get 0 s.srcSeq agent
  (n, { s with srcSeq := Store.set 0 s.srcSeq agent ((n + 1) % 65536) })

/-- A WAITB that its core's context had saved is performed again (R153). -/
def againWait (p : Nat) (s : State) (v : ValueReq) : State :=
  match v.op with
  | .waitb _ loc ph t =>
    let q := takeSeq p s
    { q.2 with waits := q.2.waits ++ [⟨p, loc, ph, s.cyc.toNat + t, v.vid, p, q.1⟩] }
  | _ => s

/-- A context comes back onto core `p` from the area at `base`: all three copies, the tiles, the graft records, the operations that waited (R262, R264, R265). Tile operations of the code that was there go; its stores stay. -/
def restoreContext (s : State) (p base : Nat) : State :=
  let c := s.core p
  let routines := (s.imageOf c).routines
  let r := readSave s base c.work.bno (s.imageOf c) c.com
  let x := Store.find? s.extras base
  let vals : List ValueReq × List ValueReq × List (Nat × Nat × Word × BitVec 6) := match x with
    | some e => (e.values, e.heldValues, e.back)
    | none => ([], [], [])
  let late : List TrapRec × Option Inserted := match x with
    | some e => (e.reports, e.comp)
    | none => ([], none)
  let gs := restoredGrafts s base routines (match x with
    | some e => e.bodies
    | none => []) r
  let ctl := areaNat s base 0x009 1
  let s := (vals.1 ++ vals.2.1).foldl (againWait p) s
  let s := attachOps s p base
  s.onCore p fun c =>
    { c with
      work := r
      mark := r
      com := r
      seg := Segment.opened r.pc r.space
      pending := none
      tiles := readTiles s base
      grafts := (List.range gs.length).zip gs
      value := vals.1
      heldValue := vals.2.1
      valueBack := vals.2.2
      async := late.1 ++ c.async
      opaq := c.opaq.filter fun o => match o.2 with
        | .store _ => true
        | _ => false
      comp := late.2
      bskip := ctl.testBit 0
      sync := none
      merged := false
      reserved := c.reserved + { c with grafts := (List.range gs.length).zip gs, inserts := [], comp := late.2 }.callRequests
      repAt := s.cyc.toNat
      run := .running }

/-- RETURNING FROM AN EXCEPTION (R262, R179), by the SRET of the bundle at `pc`. The context is reloaded from the save area and task level set; an area that cannot be resumed, or a RESUME whose bits 4:1 are not zero, is a trap of that bundle at supervisor level, and so is uncorrectable data in the area: its bundle has committed, so nothing is rolled back first (R310; DESIGN CHOICE, log 73). -/
def returnFromTrap (s : State) (p : Nat) (pc : Word) (space : Bool) : State :=
  let s := settleStores p s
  let c := s.core p
  let bad (cause sub : Nat) (info : Word) : State := stopCore s p ⟨cause, sub, pc, space, info⟩
  match saveLoc s c with
  | none => bad causeSegv 0 1
  | some base =>
    let resume := areaNat s base 0 8
    if areaLost s base then bad causeUncorrectable 0 (slotInfo 1 0)
    else if bitsOf resume 1 4 ≠ 0 then bad causeMisalign 2 (BitVec.ofNat 64 resume)
    else if !saveOk s base || !(s.imageOf c).holds (BitVec.ofNat 64 (resume / 32 * 32)) (resume.testBit 0) then
      bad causeSegv 0 1
    else (restoreContext s p base).onCore p fun c => { c with sup := false }

/-- An effect that waits for the segment's commit (R109). -/
def addEffect (p : Nat) (e : Effect) (s : State) : State :=
  s.onCore p fun c => { c with seg := { c.seg with effects := c.seg.effects ++ [e] } }

/-- An implicit mark stands after the bundle (R107). -/
def markAfter (p : Nat) (s : State) : State := s.onCore p fun c => { c with markAfter := true }

/-- A check that the segment awaits. -/
def addCheck (p : Nat) (k : Check) (s : State) : State :=
  s.onCore p fun c => { c with seg := { c.seg with checks := c.seg.checks ++ [k] } }

/-- An asynchronous report for core `p`, delivered at a mark (R259). -/
def addReport (p : Nat) (t : TrapRec) (s : State) : State := s.onCore p fun c => { c with async := c.async ++ [t] }

end Sys2Proof.Machine
end

