-- ==== Sys2Proof/Machine/Homes.lean ====
section
/-! DEFINITION. Homes: completion objects, the tags of requests and their windows, what atomics do, timed waits and the cycle's end (R140 to R147, R310, R325, R338). -/

namespace Sys2Proof.Machine

/-- Fields of a completion object (Table 6.4). -/
def objExpect (o : Nat) : Nat := bitsOf o 0 16
def objCount (o : Nat) : Nat := bitsOf o 16 16
def objPhase (o : Nat) : Nat := bitsOf o 32 16
def objPoison (o : Nat) : Bool := o.testBit 48
def objCode (o : Nat) : Nat := bitsOf o 49 7

/-- arrive(O) on the object's value (R145). -/
def arriveVal (o : Nat) : Nat :=
  if objPoison o then o
  else if decide (objExpect o = 0) || decide (objExpect o ≤ objCount o) then setBits (setBits o 48 1 1) 49 7 1
  else
    let n := objCount o + 1
    if n = objExpect o then setBits (setBits o 16 16 0) 32 16 ((objPhase o + 1) % 65536) else setBits o 16 16 n

/-- fault(O, code) on the object's value (R145). -/
def faultVal (code o : Nat) : Nat := if objPoison o then o else setBits (setBits o 49 7 code) 48 1 1

/-- The location of a completion object that an engine, or the scheduler, of core `p`'s cluster arrives on: an aligned word of the tun or a cellar (R144). -/
def cvaLoc (p va : Nat) : Option Nat :=
  if va % 8 ≠ 0 then none
  else match windowOf p va with
    | some (.tun c off) => some (tunLoc c off)
    | some (.cellar d off) => some (cellarLoc d off)
    | _ => none

/-- The device of the CXL tier that backs a location, as its port and its place behind it: ranges stand in ascending port order, then device order, with no holes (R325). -/
def tierDevice (tiers : List (List Nat)) (loc : Nat) : Option (Nat × Nat) :=
  let base := 0x100000000000
  let devices := tiers.zipIdx.flatMap fun (sizes, port) => sizes.zipIdx.map fun (n, k) => (n, port, k)
  (devices.foldl (fun (acc : Nat × Option (Nat × Nat)) (n, d) =>
    (acc.1 + n, if decide (base + acc.1 ≤ loc) && decide (loc < base + acc.1 + n) then some d else acc.2)) (0, none)).2

/-- The port of the CXL tier that backs a location (R140, R325). -/
def tierPort (tiers : List (List Nat)) (loc : Nat) : Option Nat := (tierDevice tiers loc).map (·.1)

/-- Whether the device behind a location has failed (R325). -/
def deviceFailed (s : State) (loc : Nat) : Bool :=
  if loc < sramBase then
    match tierDevice s.tiers loc with
    | some d => s.failedDevices.contains d
    | none => false
  else false

/-- Whether sequence number `a` was issued before `b` (R143). -/
def seqBefore (a b : Nat) : Bool := decide (a ≠ b) && decide ((b + 65536 - a) % 65536 < 32768)

/-- The home of a location by its first location: a barrel, tun or cellar bank, an HBM4E stack of 64 GiB, the CXL port that backs it (R140, R338, log 39). -/
def State.homeOf (s : State) (loc : Nat) : Nat :=
  if sramBase + 2 ^ 33 ≤ loc then loc - loc % 0x80000
  else if sramBase + 2 ^ 32 ≤ loc then loc - loc % 0x20000
  else if sramBase ≤ loc then loc - loc % 0x4000
  else match tierPort s.tiers loc with
    | some k => 0x100000000000 + k
    | none => loc - loc % 2 ^ 36

/-- The source number of an agent: the chip's number within its step domain in bits 21:10 (R143). -/
def State.source (s : State) (agent : Nat) : Nat := if 2 ^ 22 ≤ agent then agent - 2 ^ 22 else s.chip.toNat * 1024 + agent

/-- A peer's agent with source number `n`, beside the numbers of the agents of this package (R143, R328). -/
def peerAgent (n : Nat) : Nat := 2 ^ 22 + n
def isPeer (agent : Nat) : Bool := decide (2 ^ 22 ≤ agent)

/-- The agents beside the cores, as service firmware numbers them at bring-up: the engine ports of a cluster, its native units, the scheduler core of a die (R143; DESIGN CHOICE, log 76). -/
def engineAgent (p : Nat) : Nat := 640 + p / 8
def nativeAgent (p : Nat) : Nat := 720 + p / 8
def schedAgent (die : Nat) : Nat := 800 + die

/-- The recorded result of a tag, where the window of the location's home still holds it (R143). -/
def windowFind (s : State) (loc : Nat) (q : AtomPart) : Option (Word × BitVec 6) :=
  (s.window.find? fun w => decide (w.1 = s.homeOf loc) && decide (w.2.1 = s.source q.src) && decide (w.2.2.1 = q.seq)).map fun w => w.2.2.2

/-- A tag older than the home's window of its source, which is full (R143). -/
def staleTag (s : State) (loc : Nat) (q : AtomPart) : Bool :=
  let w := s.window.filter fun w => decide (w.1 = s.homeOf loc) && decide (w.2.1 = s.source q.src)
  decide (64 ≤ w.length) && w.all fun w => seqBefore q.seq w.2.2.1

/-- The last 64 tags of a source at a home (R143). -/
def trimWindow (home src : Nat) (w : List (Nat × Nat × Nat × Word × BitVec 6)) : List (Nat × Nat × Nat × Word × BitVec 6) :=
  let mine (q : Nat × Nat × Nat × Word × BitVec 6) : Bool := decide (q.1 = home) && decide (q.2.1 = src)
  if 64 < w.countP mine then w.eraseP mine else w

/-- A tag enters the window of its home, with the value and the STAT bits returned for it (R143). -/
def recordTag (loc agent seq : Nat) (v : Word) (st : BitVec 6) (s : State) : State :=
  { s with window := trimWindow (s.homeOf loc) (s.source agent) (s.window ++ [(s.homeOf loc, s.source agent, seq, v, st)]) }

/-- What an update makes of the object's value (R145); that of a CPYT leaves the first row not written in COUNT (R148). -/
def ObjUpdate.apply : ObjUpdate → Nat → Nat
  | .arrive, o => arriveVal o
  | .fault code, o => faultVal code o
  | .faultRow code row, o => setBits (faultVal code o) 16 16 (Nat.min row 0xFFFF)

/-- An arrival or a fault report of agent `a`, tagged with context `ctx` where it is a context's, on an object: one atomic, under a tag of its own (R143, R145). On an object whose row waits for its scrub it is held, and on one that holds uncorrectable data it changes nothing (R310, log 73). -/
def updateObj (s : State) (ctx : Option Nat) (a loc : Nat) (u : ObjUpdate) : State :=
  if s.scrubs loc then { s with heldArrivals := s.heldArrivals ++ [⟨a, loc, u, ctx⟩] }
  else
    let q := takeSeq a s
    if s.isPoisoned loc then q.2
    else recordTag loc a q.1 (BitVec.ofNat 64 (s.readNat loc 8)) 0 (q.2.writeNat loc 8 (u.apply (s.readNat loc 8)))

/-- The new value of a location and the STAT bits (Table 7.4, R142). -/
def AtomOp.apply (op : AtomOp) (width : Nat) (bf16 : Bool) (old operand cmp : Nat) : Nat × BitVec 6 :=
  let w := 8 * width
  let b := operand % 2 ^ w
  match op with
  | .add => ((old + b) % 2 ^ w, 0)
  | .min => (if toSigned w b < toSigned w old then b else old, 0)
  | .max => (if toSigned w old < toSigned w b then b else old, 0)
  | .minu => (Nat.min old b, 0)
  | .maxu => (Nat.max old b, 0)
  | .and => (old &&& b, 0)
  | .or => (old ||| b, 0)
  | .xor => (old ^^^ b, 0)
  | .exch => (b, 0)
  | .cas => (if old = cmp % 2 ^ w then b else old, 0)
  | .fadd => let f := if bf16 then FloatFmt.bf16 else FloatFmt.f32; f.sum (f.read old) (f.read b)
  | .arrive => (arriveVal old, 0)

/-- Whether core `p` waits for a value. -/
def Core.awaits (c : Core) (vid : Nat) : Bool :=
  c.value.any (fun v => decide (v.vid = vid)) || c.heldValue.any fun v => decide (v.vid = vid)

/-- The die whose egress block holds the packets of an endpoint: device links 0 to 23, then host ports from 24 on. -/
def endpointDie (e : Nat) : Nat := if e < 24 then e / 6 else (e - 24) % 4

/-- A link or a host port, down until firmware has trained it. -/
def State.link (s : State) (n : Nat) : Link := Store.get ⟨false, 0, 0, 0, [], 0⟩ s.links n

/-- A packet enters egress quarantine at an endpoint (R313). -/
def putPacket (e : Nat) (q : Packet) (s : State) : State :=
  { s with quarantine := Store.put s.quarantine e (Store.get [] s.quarantine e ++ [q]) }

/-- A value goes back to the core that asked for it, once; to a peer's agent over its link, as data read at the location (R313, R328). -/
def sendBack (p vid lane : Nat) (v : Word) (st : BitVec 6) (s : State) : State :=
  if isPeer p then putPacket (p - 2 ^ 22) ⟨.kept, s.cyc.toNat, [regionOf (endpointDie (p - 2 ^ 22)) vid], false, toBytes 8 v.toNat⟩ s
  else s.onCore p fun c =>
    if c.awaits vid && !c.valueBack.any (fun b => decide (b.1 = vid) && decide (b.2.1 = lane)) then
      { c with valueBack := c.valueBack ++ [(vid, lane, v, st)] }
    else c

/-- Core `p` consumes uncorrectable data as the value of an operation that it has performed, in a VAMO that of a lane: a rollback, and at the second consumption the trap UNCORRECTABLE at the operation's bundle, which gets no value (R116, R310, Table 15.7, log 73). -/
def consumeValue (p vid lane : Nat) (s : State) : State :=
  let c := s.core p
  let key := (c.com.lastPc, c.com.lastSpace)
  if c.badRec = some key then
    let slot := match c.valueReq vid with
      | some v => v.slot
      | none => 0
    let other (v : ValueReq) : Bool := decide (v.vid ≠ vid)
    { s.setCore p { c with
        value := c.value.filter other
        heldValue := c.heldValue.filter other
        valueBack := c.valueBack.filter fun b => decide (b.1 ≠ vid)
        sync := some ⟨causeUncorrectable, 0, key.1, key.2, slotInfo slot lane⟩ } with
      waits := s.waits.filter fun w => decide (w.vid ≠ vid)
      reqs := (s.reqs.map fun (n, r) => (n, { r with parts := r.parts.filter fun q => decide (q.vid ≠ vid) })).filter fun (_, r) => !r.parts.isEmpty }
  else (rollback s p).onCore p fun c => { c with badRec := some key }

/-- The code that a WAITB returns while it can: 0 for an advanced phase, 2 for poison (R147). -/
def waitCode (s : State) (w : TimedWait) : Option Nat :=
  let o := s.readNat w.loc 8
  if objPhase o ≠ w.phase.toNat then some 0 else if objPoison o then some 2 else none

/-- The value of a WAITB: the object's bits 55:0 under the result code (R168). -/
def waitValue (s : State) (w : TimedWait) (code : Nat) : Word :=
  BitVec.ofNat 64 (s.readNat w.loc 8 % 2 ^ 56 ||| (code <<< 56))

/-- A wait is over with the code given; its home records the value under its tag (R143). -/
def endWait (w : TimedWait) (code : Nat) (s : State) : State :=
  let v := waitValue s w code
  recordTag w.loc w.agent w.seq v 0 (sendBack w.core w.vid 0 v 0 { s with waits := s.waits.filter fun a => decide (a ≠ w) })

/-- A wait as its home evaluates it in a cycle (R147): phase, poison, and the timeout when `late`. An object in a row that waits for its scrub is not read; uncorrectable data is consumed (R310). -/
def evalWait (late : TimedWait → Bool) (s : State) (w : TimedWait) : State :=
  if s.scrubs w.loc then s
  else if s.isPoisoned w.loc then (if (s.core w.core).restarting then s else consumeValue w.core w.vid 0 s)
  else match waitCode s w with
    | some n => endWait w n s
    | none => if late w then endWait w 1 s else s

/-- Time passes to cycle `t`. As a cycle ends, every wait is evaluated (R147): a completion and an expiry of one cycle give 0. Published stores whose time has come are performed (R132). -/
def State.until (s : State) (t : Nat) : State :=
  if s.cyc.toNat < t then
    let s := { s.waits.foldl (evalWait fun w => decide (w.deadline < t)) s with cyc := BitVec.ofNat 64 t }
    s.cores.foldl (fun s (p, c) => if c.heldStores.isEmpty then s else flushStores p s) s
  else s

end Sys2Proof.Machine
end

