-- ==== Sys2Proof/Machine/Solera.lean ====
section
/-! DEFINITION. Activities and the solera: pushes, abandonment, entanglement, compensation, and what an arrival brings about (R145, R175 to R178, R271). -/

namespace Sys2Proof.Machine

/-- State codes (Table 7.7). -/
def ActState.code : ActState → Nat
  | .open => 1
  | .ending => 2
  | .abandoning => 3
  | .ended => 4
  | .abandoned => 5
  | .failed => 6

/-- Whether the state is OPEN or ENDING. -/
def ActState.live : ActState → Bool
  | .open | .ending => true
  | _ => false

/-- An activity of the context, by id. -/
def actOf (s : State) (ctx id : Nat) : Option Activity :=
  match Store.find? s.acts id with
  | some a => if a.ctx = ctx then some a else none
  | none => none

/-- The code that ACTS and ACTE report (Table 7.7). -/
def actCode (s : State) (ctx id : Nat) : Nat :=
  match actOf s ctx id with
  | some a => a.state.code
  | none => 0

/-- The footprint of an activity: the OR of its records' tags (R233). -/
def footprint (s : State) (id : Nat) : BitVec 32 :=
  s.records.foldl (fun t r => if r.act = id then t ||| r.tag else t) 0

/-- Whether a core runs a context and may take what is meant for it (R178). -/
def runsContext (s : State) (p ctx : Nat) : Bool :=
  let c := s.core p
  decide (c.ctx.toNat = ctx) && (decide (c.run = .running) || decide (c.run = .ending))

/-- The core that something meant for `first`, then `second`, of a context goes to: else the lowest-numbered core that runs it (R178). -/
def chooseCore (s : State) (ctx : Nat) (prefs : List Nat) : Option Nat :=
  match prefs.find? fun p => runsContext s p ctx with
  | some p => some p
  | none => s.cores.findSome? fun (p, _) => if runsContext s p ctx then some p else none

/-- A report for a context, held where no core runs it (R178). -/
def reportTo (s : State) (ctx : Nat) (prefs : List Nat) (t : TrapRec) : State :=
  match chooseCore s ctx prefs with
  | some p => addReport p t s
  | none => { s with heldReports := s.heldReports ++ [(ctx, t)] }

/-- A COMPFAIL report (R177, R178, Table 15.7). The id of an ACTP whose B is all ones, which the model has as 256, is 0xFF there, B[7:0] (R177, R246, log 87). -/
def compfail (id reason : Nat) : TrapRec := ⟨causeCompfail, 5, 0, false, BitVec.ofNat 64 (Nat.min id 255 ||| (reason <<< 8))⟩

/-- An ENTANGLED report naming both activities (R178). -/
def entangled (id id2 : Nat) : TrapRec := ⟨causeEntangled, 5, 0, false, BitVec.ofNat 64 (id ||| (id2 <<< 8))⟩

/-- An activity's state replaced. -/
def setAct (s : State) (id : Nat) (f : Activity → Activity) : State :=
  match Store.find? s.acts id with
  | some a => { s with acts := Store.put s.acts id (f a) }
  | none => s

/-- The records of an activity retired (R175). -/
def retire (s : State) (id : Nat) : State := { s with records := s.records.filter fun r => decide (r.act ≠ id) }

/-- ACTB: the lowest free id, its gate and the gate's phase; all ones when none is free (R175, R176). -/
def actBegin (s : State) (p loc : Nat) : State × Word :=
  let free (id : Nat) : Bool := match Store.find? s.acts id with
    | some a => decide (a.state = .ended) || decide (a.state = .abandoned)
    | none => true
  match (List.range 256).find? free with
  | none => (s, allOnes64)
  | some id =>
    let a : Activity := ⟨.open, (s.core p).ctx.toNat, loc, BitVec.ofNat 16 (objPhase (s.readNat loc 8)), p, 0, s.nextMerge, 0, false⟩
    ({ s with acts := Store.put s.acts id a }, BitVec.ofNat 64 id)

/-- Why a push is refused; the reasons are tested in the order of R177. -/
def pushRefusal (s : State) (ctx id : Nat) : Option Nat :=
  match Store.find? s.acts id with
  | none => some 0
  | some a =>
    if a.state ≠ .open then some 0
    else if a.ctx ≠ ctx then some 1
    else if 65536 ≤ s.records.length then some 2
    else none

/-- Activities that fail in one merged abandonment, or alone, share a new number (R178, R271). -/
def failTogether (s : State) (ids : List Nat) : State :=
  ids.foldl (fun s id => setAct s id fun a => { a with state := .failed, merged := s.nextMerge - 1, mates := ids.length })
    { s with nextMerge := s.nextMerge + 1 }

/-- The 64 bytes of one copy of a record (Table 7.9). -/
def recordBytes (mirror : Bool) (r : SolRec) : List Byte :=
  toBytes 6 r.seq ++ toBytes 1 r.act ++ toBytes 1 (r.done.toNat + 2 * r.running.toNat + 4 * mirror.toNat) ++ toBytes 2 r.core ++
    toBytes 2 r.routine ++ toBytes 4 r.tag.toNat ++ r.params.flatMap fun w => toBytes 8 w.toNat

/-- Where a copy of a record lies: the record on the die of its sequence number, the mirror on the next one, each in its own half of the die's solera reserve (R177, R338; DESIGN CHOICE, log 74). -/
def copyLoc (mirror : Bool) (r : SolRec) : Nat :=
  cellarLoc ((r.slot + mirror.toNat) % 4) (0x2E00000 + 0x100000 * mirror.toNat + r.slot / 4 * 64)

/-- Both copies of a record as they stand in the reserves. -/
def putCopies (s : State) (r : SolRec) : State :=
  s.writeBytes (bytesAt (copyLoc false r) (recordBytes false r) ++ bytesAt (copyLoc true r) (recordBytes true r))

/-- The lowest free place for the next record, on the die of its sequence number where one is free. -/
def freeSlot (s : State) : Nat :=
  let free (k : Nat) : Bool := !s.records.any fun r => decide (r.slot = k)
  let own := (List.range (s.records.length + 1)).find? fun i => free (4 * i + s.nextSeq % 4)
  match own with
  | some i => if i < 16384 then 4 * i + s.nextSeq % 4 else ((List.range (s.records.length + 1)).find? free).getD 0
  | none => 0

/-- ACTP at commit: the record takes the next sequence number, or the push is refused (R177). -/
def actPush (s : State) (p idx : Nat) (tag : BitVec 32) (id : Nat) (params : List Word) : State :=
  let ctx := (s.core p).ctx.toNat
  match pushRefusal s ctx id with
  | none =>
    let r : SolRec := ⟨s.nextSeq, id, false, false, p, idx, tag, params, freeSlot s⟩
    putCopies { s with records := s.records ++ [r], nextSeq := (s.nextSeq + 1) % 2 ^ 48 } r
  | some reason =>
    let fails := match actOf s ctx id with
      | some a => decide (reason ≠ 1) && a.state.live
      | none => false
    addReport p (compfail id reason) (if fails then failTogether s [id] else s)

/-- An entangling pair for a set of activities: a later record of another live activity whose tag overlaps (R178). -/
def entanglement (s : State) (ids : List Nat) : Option (Nat × Nat) :=
  s.records.findSome? fun r =>
    if ids.contains r.act then
      s.records.findSome? fun r' =>
        let live := match Store.find? s.acts r'.act with
          | some a => a.state.live
          | none => false
        if !ids.contains r'.act && live && decide (r.seq < r'.seq) && decide (r.tag &&& r'.tag ≠ 0) then some (r.act, r'.act)
        else none
    else none

/-- The activities that are ABANDONING. -/
def abandoning (s : State) : List Nat := s.acts.filterMap fun (id, a) => if a.state = .abandoning then some id else none

/-- The merged abandonment that grows from a set of activities by overlapping footprints (R178). -/
def mergedSet (s : State) : Nat → List Nat → List Nat
  | 0, l => l
  | n + 1, l =>
    let more := (abandoning s).filter fun id =>
      !l.contains id && l.any fun j => decide (footprint s id &&& footprint s j ≠ 0)
    if more.isEmpty then l else mergedSet s n (l ++ more)

/-- Whether a CKPT whose gate has opened, and which has not completed, holds the compensation of a record (R233). -/
def ckptHolds (s : State) (tag : BitVec 32) : Bool :=
  s.ops.any fun (_, o) => decide (o.cmd.kind = .ckpt) && decide (o.stage ≠ .waiting) && decide (o.cmd.b.setWidth 32 &&& tag ≠ 0)

/-- The youngest record of a merged set that has not run. -/
def youngest (s : State) (ids : List Nat) : Option SolRec :=
  s.records.foldl (fun acc r =>
    if ids.contains r.act && !r.done then
      match acc with
      | some b => if b.seq < r.seq then some r else acc
      | none => some r
    else acc) none

/-- A record replaced by its image, in both copies. -/
def setRec (s : State) (seq : Nat) (f : SolRec → SolRec) : State :=
  match s.records.find? fun r => decide (r.seq = seq) with
  | some r => putCopies { s with records := s.records.map fun r => if r.seq = seq then f r else r } (f r)
  | none => s

/-- Releases the next compensating run of activity `id`'s merged abandonment, where none is running, no checkpoint holds it and a core of the record's context runs (R178, R233). The write of both copies is also what rewrites a poisoned one from its mirror (R310). -/
def releaseRun (s : State) (id : Nat) : State :=
  let ids := mergedSet s 256 [id]
  match youngest s ids with
  | none => s
  | some r =>
    if s.records.any (fun r => ids.contains r.act && r.running) || ckptHolds s r.tag then s
    else match (Store.find? s.acts r.act).bind fun a => chooseCore s a.ctx [r.core, a.cause] with
      | none => s
      | some p =>
        (setRec s r.seq fun r => { r with running := true }).onCore p fun c =>
          { c with inserts := c.inserts ++ [⟨r.routine, r.params ++ [0, 0], some r.seq, none, none, false⟩] }

/-- Every ABANDONING activity without a record left becomes ABANDONED and its records are retired; the runs that may start are released (R175, R178). -/
def pump (s : State) : State :=
  let s := (abandoning s).foldl (fun s id =>
    if s.records.all fun r => decide (r.act ≠ id) || r.done then retire (setAct s id fun a => { a with state := .abandoned }) id
    else s) s
  (abandoning s).foldl releaseRun s

/-- A set of activities is abandoned by core `p`, or keeps its states when a record entangles it (R178). -/
def abandonSet (s : State) (ids : List Nat) (p : Nat) : State × Option (Nat × Nat) :=
  match entanglement s ids with
  | some e => (s, some e)
  | none => (pump (ids.foldl (fun s id => setAct s id fun a => { a with state := .abandoning, cause := p, before := (s.core p).com.bno }) s), none)

/-- Activity `id` is abandoned; an entanglement is reported to the causing core (R178). -/
def abandonOne (s : State) (id p : Nat) : State :=
  let r := abandonSet s [id] p
  match r.2, Store.find? s.acts id with
  | some e, some a => reportTo r.1 a.ctx [p] (entangled e.1 e.2)
  | _, _ => r.1

/-- ACTA at commit (Table 7.8). -/
def actAbandon (s : State) (p id : Nat) : State :=
  match actOf s (s.core p).ctx.toNat id with
  | some a => if a.state.live then abandonOne s id p else s
  | none => s

/-- The gate of an ENDING activity: an advanced phase ends it, poison abandons it (Table 7.8). A gate with both ends it, and poison whose abandonment met an entangling record is acted on once (DESIGN CHOICE, log 75: Table 7.8 gives no order, and R178 does not say that the gate is tried again). A gate whose row waits for its scrub, or holds uncorrectable data, is not read (R310, log 73). -/
def checkGate (s : State) (id : Nat) : State :=
  match Store.find? s.acts id with
  | none => s
  | some a =>
    if decide (a.state ≠ .ending) || s.scrubs a.gate || s.isPoisoned a.gate then s
    else
      let o := s.readNat a.gate 8
      if objPhase o ≠ a.phase.toNat then retire (setAct s id fun a => { a with state := .ended }) id
      else if objPoison o && !a.poisonSeen then
        abandonOne (setAct s id fun a => { a with poisonSeen := true }) id a.cause
      else s

/-- Every gate looked at, and the compensation that may go on (R175). -/
def checkGates (s : State) : State := pump ((s.acts.map (·.1)).foldl checkGate s)

/-- ACTE at commit: an OPEN activity becomes ENDING and its gate is looked at (Table 7.8). -/
def actEnd (s : State) (p id : Nat) : State :=
  match actOf s (s.core p).ctx.toNat id with
  | some a => if a.state = .open then checkGates (setAct s id fun a => { a with state := .ending, cause := p }) else s
  | none => s

/-- arrive(O) performed by agent `a`, with what it brings about (R145, R175). -/
def arriveAt (s : State) (ctx : Option Nat) (a loc : Nat) : State := checkGates (updateObj s ctx a loc .arrive)

/-- fault(O, code) performed, with what it brings about. -/
def faultAt (s : State) (ctx : Option Nat) (a loc code : Nat) : State := checkGates (updateObj s ctx a loc (.fault code))

/-- fault(O, code) of a CPYT, with COUNT the first row not written (R148). -/
def faultRowAt (s : State) (ctx : Option Nat) (a loc code row : Nat) : State :=
  checkGates (updateObj s ctx a loc (.faultRow code row))

/-- The updates of objects whose rows wait for no scrub any more are performed, in their order (R310). -/
def releaseArrivals (s : State) : State :=
  let go (h : HeldUpdate) : Bool := !s.scrubs h.loc
  checkGates ((s.heldArrivals.filter go).foldl (fun s h => updateObj s h.ctx h.agent h.loc h.upd)
    { s with heldArrivals := s.heldArrivals.filter fun h => !go h })

/-- A compensating run has completed: its record is done, and RUN is clear again (DESIGN CHOICE, log 97: Table 7.9 says when it is set and not for how long); the next older one is released (R138, R178). -/
def runDone (s : State) (seq : Nat) : State :=
  pump (setRec s seq fun r => { r with running := false, done := true })

/-- A trap inside a compensating run on core `p` fails the merged abandonment (R178). -/
def runFailed (s : State) (p seq : Nat) : State :=
  match s.records.find? fun r => decide (r.seq = seq) with
  | none => s
  | some r =>
    let ids := mergedSet s 256 [r.act]
    let s := setRec s seq fun r => { r with running := false }
    let s := failTogether s ids
    match Store.find? s.acts r.act with
    | some a => reportTo s a.ctx [p] (compfail r.act 3)
    | none => s

end Sys2Proof.Machine
end

