-- ==== Sys2Proof/Machine/Run.lean ====
section
/-! DEFINITION. A slot word runs: its checks, its guard, and what follows the slots of a bundle; a trap taken while an inserted call runs (R70, R78, R79, R82, R178, R259). -/

namespace Sys2Proof.Machine

/-- A trap inside a compensating run of core `p` ends the merged abandonment it belongs to (R178); the run then goes on without a record. -/
def failRun (p : Nat) (s : State) : State :=
  match (s.core p).comp with
  | some i => match i.seq with
    | some q => (runFailed s p q).onCore p fun c => { c with comp := some { i with seq := none } }
    | none => s
  | none => s

/-- A trap is taken on core `p`. -/
def trapNow (s : State) (p : Nat) (bskip : Bool) (t : TrapRec) : State := takeTrap (failRun p s) p bskip t

/-- Nothing but an SRET of the bundle at `pc` stands uncommitted on the core: the return needs no further commit (R262). -/
def Core.onlySret (c : Core) (pc : Word) (space : Bool) : Bool :=
  c.pending.isNone && c.seg.stores.isEmpty && c.seg.opas.isEmpty && c.seg.checks.isEmpty && decide (c.seg.effects = [.sret pc space])

/-- What follows the slots of a bundle. A trap raised in it leaves no other effect (R79): it is taken at once where every older segment has committed and nothing is owed, and held otherwise (R259). Uncorrectable data consumed at issue rolls the core back (R116). `go` is what follows otherwise. -/
def settleWith (p : Nat) (before after : State) (go : State → State) : State :=
  match (after.core p).sync with
  | some t =>
    if (before.core p).sync.isSome then before
    else if (before.core p).trapsNow then trapNow before p false t
    else before.onCore p fun c => { c with sync := some t }
  | none =>
    match (after.core p).seg.bad with
    | some (pc, space) => consume after p (after.core p).work.bno pc space 4 0
    | none => go after

/-- What follows a slot word that is an instruction of its own: an SRET with nothing left to commit returns at once. -/
def settle (p : Nat) (before after : State) : State :=
  let w := (before.core p).work
  settleWith p before after fun s => if (s.core p).onlySret w.pc w.space then returnFromTrap s p w.pc w.space else s

/-- The context a meaning is given. -/
def ctxOf (i : Instr) (f : Fields) (s : State) : Ctx := ⟨s.cur, slotIndex i, cleanFields i f⟩

/-- Whether the guard gates lanes and not the whole instruction: the V slots, and CMPT in its vector class (R70, R181). -/
def laneGated (i : Instr) (f : Fields) : Bool :=
  match i with
  | .cmpt _ => decide (f.f = 1)
  | i => decide (slotIndex i = 2) || decide (slotIndex i = 3)

/-- A slot word issues. A reserved operand code or format traps ILLEGAL_ENCODING, a privileged form at task level PRIV, both from the encoding alone (R78, R79). Its fallbacks raise WARN bits whatever the guard (R82); outside the V slots a false guard leaves it without effect (R70, R95); an SR conversion uses up its counters whatever the guard (R55). -/
def runSlot (i : Instr) (f : Fields) (body : Ctx → State → State) (s : State) : State :=
  let x := ctxOf i f s
  let c := s.core x.p
  if !operandsOk i then raise x causeIllegal s
  else if privileged i && !c.sup then raise x causePriv s
  else
    let s1 := pushWarn x (warnBits i f c.lx) s
    let s2 := if laneGated i x.f || c.work.guard f.g then body x s1 else s1
    if isSR i f then s2.onCore x.p fun c => { c with srUsed := c.srUsed + 1 } else s2

/-- A slot word as an instruction of its own. -/
def slotExec (i : Instr) (f : Fields) (body : Ctx → State → State) (s : State) : State :=
  settle s.cur s (runSlot i f body s)

end Sys2Proof.Machine
end

