-- ==== Sys2Proof/Machine/ScalarInt.lean ====
section
/-! DEFINITION. Integer arithmetic, logic, compares, selects and moves of the S slot, and the duplicate ALU of the X slot (R155 to R158, R182). -/

namespace Sys2Proof.Machine

/-- The result of an integer operation: its 64 bits and the STAT bits it raises. -/
abbrev IntResult := Word × BitVec 6

/-- `i` clamped to `lo ≤ v ≤ hi`, SAT when it clamps (R45, R155). -/
def clampInt (lo hi i : Int) : IntResult :=
  if i < lo then (BitVec.ofInt 64 lo, statSAT)
  else if hi < i then (BitVec.ofInt 64 hi, statSAT)
  else (BitVec.ofInt 64 i, 0)

/-- ADD: wrap, signed saturate, unsigned saturate (Table 7.1). -/
def addVal (f : BitVec 4) (a b : Word) : IntResult :=
  match f.toNat with
  | 1 => clampInt (intRange true 64).1 (intRange true 64).2 (a.toInt + b.toInt)
  | 2 => clampInt (intRange false 64).1 (intRange false 64).2 (a.toNat + b.toNat)
  | _ => (a + b, 0)

/-- SUB: as ADD; the unsigned form clamps at 0 (Table 7.1). -/
def subVal (f : BitVec 4) (a b : Word) : IntResult :=
  match f.toNat with
  | 1 => clampInt (intRange true 64).1 (intRange true 64).2 (a.toInt - b.toInt)
  | 2 => clampInt (intRange false 64).1 (intRange false 64).2 ((a.toNat : Int) - b.toNat)
  | _ => (a - b, 0)

/-- Shift counts are B[5:0] (R155). -/
def shiftCount (b : Word) : Nat := b.toNat % 64

/-- SHL (Table 7.1). -/
def shlVal (a b : Word) : IntResult := (a <<< shiftCount b, 0)

/-- SHR: logical, or arithmetic with F = 1 (Table 7.1). -/
def shrVal (f : BitVec 4) (a b : Word) : IntResult :=
  (if f = 1 then a.sshiftRight (shiftCount b) else a >>> shiftCount b, 0)

/-- MUL: low 64 bits, or the high 64 of the signed or unsigned product (Table 7.1). -/
def mulVal (f : BitVec 4) (a b : Word) : IntResult :=
  match f.toNat with
  | 1 => (BitVec.ofInt 64 ((a.toInt * b.toInt) / ((2 ^ 64 : Nat) : Int)), 0)
  | 2 => (BitVec.ofNat 64 (a.toNat * b.toNat / 2 ^ 64), 0)
  | _ => (a * b, 0)

/-- DIV: quotient or remainder, truncating toward zero; a remainder takes the sign of A; the corner cases of R156. -/
def divVal (f : BitVec 4) (a b : Word) : IntResult :=
  let signed := f.getLsbD 0
  let rem := f.getLsbD 1
  if b = 0 then (if rem then a else BitVec.allOnes 64, statDZ)
  else if signed then
    (BitVec.ofInt 64 (if rem then Int.tmod a.toInt b.toInt else Int.tdiv a.toInt b.toInt), 0)
  else (BitVec.ofNat 64 (if rem then a.toNat % b.toNat else a.toNat / b.toNat), 0)

/-- MIN: signed, or unsigned with F = 1 (Table 7.1). -/
def minVal (f : BitVec 4) (a b : Word) : IntResult :=
  (if f = 1 then (if b.toNat < a.toNat then b else a) else (if b.toInt < a.toInt then b else a), 0)

/-- MAX: as MIN (Table 7.1). -/
def maxVal (f : BitVec 4) (a b : Word) : IntResult :=
  (if f = 1 then (if a.toNat < b.toNat then b else a) else (if a.toInt < b.toInt then b else a), 0)

/-- BITC: population count, leading zeros, trailing zeros (Table 7.1). -/
def bitcVal (f : BitVec 4) (a : Word) : IntResult :=
  (BitVec.ofNat 64 (match f.toNat with
    | 1 => leadZeros 64 a.toNat
    | 2 => trailZeros 64 a.toNat
    | _ => popCount 64 a.toNat), 0)

/-- The condition codes of CMP (Table 7.2). -/
def cmpVal (f : Nat) (a b : Word) : Bool :=
  match f with
  | 1 => decide (a ≠ b)
  | 2 => decide (a.toInt < b.toInt)
  | 3 => decide (b.toInt ≤ a.toInt)
  | 4 => decide (a.toNat < b.toNat)
  | 5 => decide (b.toNat ≤ a.toNat)
  | 6 => decide (a.toInt ≤ b.toInt)
  | 7 => decide (b.toInt < a.toInt)
  | 8 => decide (a.toNat ≤ b.toNat)
  | 9 => decide (b.toNat < a.toNat)
  | _ => decide (a = b)

/-- A form that computes a value from A and B: a poisoned source gives a poisoned 0 and no STAT bit (R152). -/
def intBody (lat : Nat) (g : Word → Word → IntResult) (x : Ctx) (s : State) : State :=
  let c := x.core s
  let poison := c.srcPoison x.f.a || c.srcPoison x.f.b
  let r := g (c.srcS x.f.a) (c.srcS x.f.b)
  putS x lat x.f.d r.1 poison (if poison then 0 else r.2) s

def addBody (x : Ctx) (s : State) : State := intBody 1 (addVal x.f.f) x s
def subBody (x : Ctx) (s : State) : State := intBody 1 (subVal x.f.f) x s
def andBody (x : Ctx) (s : State) : State := intBody 1 (fun a b => (a &&& b, 0)) x s
def orBody (x : Ctx) (s : State) : State := intBody 1 (fun a b => (a ||| b, 0)) x s
def xorBody (x : Ctx) (s : State) : State := intBody 1 (fun a b => (a ^^^ b, 0)) x s
def andnBody (x : Ctx) (s : State) : State := intBody 1 (fun a b => (a &&& ~~~b, 0)) x s
def shlBody (x : Ctx) (s : State) : State := intBody 1 shlVal x s
def shrBody (x : Ctx) (s : State) : State := intBody 1 (shrVal x.f.f) x s
def mulBody (x : Ctx) (s : State) : State := intBody 3 (mulVal x.f.f) x s
def divBody (x : Ctx) (s : State) : State := intBody 20 (divVal x.f.f) x s
def minBody (x : Ctx) (s : State) : State := intBody 1 (minVal x.f.f) x s
def maxBody (x : Ctx) (s : State) : State := intBody 1 (maxVal x.f.f) x s
def bitcBody (x : Ctx) (s : State) : State := intBody 1 (fun a _ => bitcVal x.f.f a) x s

/-- Every bit of a predicate takes the outcome (R157). -/
def allBits (b : Bool) : Word := if b then allOnes64 else 0

/-- CMP (R157): a poisoned source traps. -/
def cmpBody (x : Ctx) (s : State) : State :=
  let c := x.core s
  unlessPoisoned x (c.srcPoison x.f.a || c.srcPoison x.f.b)
    (putP x 1 x.f.d.toNat (allBits (cmpVal x.f.f.toNat (c.srcS x.f.a) (c.srcS x.f.b))) allOnes64) s

/-- SEL (R157): poison only from the operand selected (R152). -/
def selBody (x : Ctx) (s : State) : State :=
  let c := x.core s
  let src := if (c.work.readP x.f.f.toNat).getLsbD 0 then x.f.a else x.f.b
  putS x 1 x.f.d (c.srcS src) (c.srcPoison src) 0 s

/-- A write of MOV, LI or AADD: an address register's tag becomes K (R75, R158). -/
def putTagged (x : Ctx) (v : Word) (poison : Bool) (s : State) : State :=
  let d := x.f.d.toNat
  if decide (32 ≤ d) && decide (d ≤ 47) then
    pushWrite x 1 (.scalar d) ((if poison then 0 else v).setWidth 2048)
      (fun q => { q with poison := poison, tag := some (x.f.f.extractLsb' 0 2) }) s
  else putS x 1 x.f.d v poison 0 s

/-- MOV (R158). -/
def movBody (x : Ctx) (s : State) : State :=
  let c := x.core s
  putTagged x (c.srcS x.f.a) (c.srcPoison x.f.a) s

/-- LI: MOV from the literal, which is never poisoned (R158, R152). -/
def liBody (x : Ctx) (s : State) : State := putTagged x (x.core s).litS false s

/-- AADD: A + (B << S) (R158). -/
def aaddBody (x : Ctx) (s : State) : State :=
  let c := x.core s
  putTagged x (c.srcS x.f.a + (c.srcS x.f.b <<< bitsOf x.f.f.toNat 2 2))
    (c.srcPoison x.f.a || c.srcPoison x.f.b) s

/-- The S-slot form that an XALU operation 0 to 7 computes (Table 7.10). -/
def xaluVal (f : Nat) (a b : Word) : Word :=
  match f with
  | 1 => a - b
  | 2 => a &&& b
  | 3 => a ||| b
  | 4 => a ^^^ b
  | 5 => (shlVal a b).1
  | 6 => (shrVal 0 a b).1
  | 7 => a * b
  | _ => a + b

/-- The condition of CMP that an XALU operation 8 to 13 tests (Table 7.10). -/
def xaluCond (f : Nat) : Nat :=
  match f with
  | 9 => 1
  | 10 => 2
  | 11 => 3
  | 12 => 4
  | 13 => 5
  | _ => 0

/-- XALU (R182). -/
def xaluBody (x : Ctx) (s : State) : State :=
  let c := x.core s
  let n := x.f.f.toNat
  let a := c.srcS x.f.a
  let b := c.srcS x.f.b
  let poison := c.srcPoison x.f.a || c.srcPoison x.f.b
  if 8 ≤ n then unlessPoisoned x poison (putP x 1 x.f.d.toNat (allBits (cmpVal (xaluCond n) a b)) allOnes64) s
  else putS x (if n = 7 then 3 else 1) x.f.d (xaluVal n a b) poison 0 s

open Host (Outcome)

/-- NOP: nothing but NOPX when a bit is set (R69). -/
def execNop (f : Fields) (s : State) : Outcome State Fault Refusal := .next (slotExec (.nop f) f (fun _ s => s) s)
def execAdd (f : Fields) (s : State) : Outcome State Fault Refusal := .next (slotExec (.add f) f addBody s)
def execSub (f : Fields) (s : State) : Outcome State Fault Refusal := .next (slotExec (.sub f) f subBody s)
def execAnd (f : Fields) (s : State) : Outcome State Fault Refusal := .next (slotExec (.and f) f andBody s)
def execOr (f : Fields) (s : State) : Outcome State Fault Refusal := .next (slotExec (.or f) f orBody s)
def execXor (f : Fields) (s : State) : Outcome State Fault Refusal := .next (slotExec (.xor f) f xorBody s)
def execAndn (f : Fields) (s : State) : Outcome State Fault Refusal := .next (slotExec (.andn f) f andnBody s)
def execShl (f : Fields) (s : State) : Outcome State Fault Refusal := .next (slotExec (.shl f) f shlBody s)
def execShr (f : Fields) (s : State) : Outcome State Fault Refusal := .next (slotExec (.shr f) f shrBody s)
def execMul (f : Fields) (s : State) : Outcome State Fault Refusal := .next (slotExec (.mul f) f mulBody s)
def execDiv (f : Fields) (s : State) : Outcome State Fault Refusal := .next (slotExec (.div f) f divBody s)
def execMin (f : Fields) (s : State) : Outcome State Fault Refusal := .next (slotExec (.min f) f minBody s)
def execMax (f : Fields) (s : State) : Outcome State Fault Refusal := .next (slotExec (.max f) f maxBody s)
def execBitc (f : Fields) (s : State) : Outcome State Fault Refusal := .next (slotExec (.bitc f) f bitcBody s)
def execCmp (f : Fields) (s : State) : Outcome State Fault Refusal := .next (slotExec (.cmp f) f cmpBody s)
def execSel (f : Fields) (s : State) : Outcome State Fault Refusal := .next (slotExec (.sel f) f selBody s)
def execMov (f : Fields) (s : State) : Outcome State Fault Refusal := .next (slotExec (.mov f) f movBody s)
def execLi (f : Fields) (s : State) : Outcome State Fault Refusal := .next (slotExec (.li f) f liBody s)
def execAadd (f : Fields) (s : State) : Outcome State Fault Refusal := .next (slotExec (.aadd f) f aaddBody s)
def execXalu (f : Fields) (s : State) : Outcome State Fault Refusal := .next (slotExec (.xalu f) f xaluBody s)

end Sys2Proof.Machine
end

