-- ==== Sys2Proof/Machine/ScalarMem.lean ====
section
/-! DEFINITION. Scalar loads, stores and the check of a speculative load (R159 to R162). -/

namespace Sys2Proof.Machine

/-- The latency of LD, LDX, VLD and VLDX under the running profile (Table 2.7). -/
def Core.ldLatency (c : Core) : Nat := if c.work.prof = 1 then 4 else 6

/-- The latency of VGATH under the running profile (Table 2.7). -/
def Core.gatherLatency (c : Core) : Nat := if c.work.prof = 1 then 6 else 8

/-- The bytes of `n` consecutive locations with their places in a register. -/
def seqBytes (loc n pos : Nat) : List (Nat × Nat) := (List.range n).map fun k => (loc + k, pos + 8 * k)

/-- A scalar load of 2^F[1:0] bytes at `va` (R159): zero- or sign-extended; a speculative one delivers a poisoned 0 in place of a SEGV or PERM trap and of uncorrectable data (R161). -/
def scalarLoad (lat : Nat) (timed spec : Bool) (va : Nat) (x : Ctx) (s : State) : State :=
  let n := 2 ^ (x.f.f &&& 3).toNat
  let poisoned := putS x lat x.f.d 0 true 0
  match access s x.p va n n false with
  | .error e => if spec && decide (e ≠ .misalign) then poisoned s else raiseAcc x e s
  | .ok loc =>
    let bytes := seqBytes loc n 0
    let ma := x.f.f.getLsbD 3
    let cls := (x.core s).work.tagA (x.f.a.toNat - 32)
    if spec && !s.heldAtBank x.p ma cls (bytes.map (·.1)) && bytes.any (fun b => s.loadBad x.p b.1) then poisoned s
    else if x.f.d = 0 then discardLoad x cls bytes s
    else pushLoad x lat 6 (.scalar x.f.d.toNat) allOnes64 bytes (if x.f.f.getLsbD 2 then .scalar (8 * n) else .zero) cls timed ma spec .plain s

/-- a[A] + B modulo 2^64 (R159). -/
def baseOffset (x : Ctx) (s : State) : Nat :=
  let c := x.core s
  (c.srcS x.f.a + c.srcS x.f.b).toNat

/-- LD (R159). -/
def ldBody (x : Ctx) (s : State) : State :=
  let c := x.core s
  unlessPoisoned x (c.srcPoison x.f.a || c.srcPoison x.f.b)
    (scalarLoad c.ldLatency false false (baseOffset x s) x) s

/-- LDT: no offset; visible at i + B, with 0 executed as 1 (R160). -/
def ldtBody (x : Ctx) (s : State) : State :=
  let c := x.core s
  unlessPoisoned x (c.srcPoison x.f.a)
    (scalarLoad (if x.f.b = 0 then 1 else x.f.b.toNat) true false (c.srcS x.f.a).toNat x) s

/-- LDX (R161). -/
def ldxBody (x : Ctx) (s : State) : State :=
  let c := x.core s
  unlessPoisoned x (c.srcPoison x.f.a || c.srcPoison x.f.b)
    (scalarLoad c.ldLatency false true (baseOffset x s) x) s

/-- ST: the low bytes of s[D] enter the cask (R159). -/
def stBody (x : Ctx) (s : State) : State :=
  let c := x.core s
  let n := 2 ^ (x.f.f &&& 3).toNat
  unlessPoisoned x (c.srcPoison x.f.a || c.srcPoison x.f.b || c.srcPoison x.f.d) (fun s =>
    match access s x.p (baseOffset x s) n n true with
    | .error e => raiseAcc x e s
    | .ok loc =>
      pushStore x (bytesAt loc (toBytes n (c.srcS x.f.d).toNat)) (c.work.tagA (x.f.a.toNat - 32)) 1
        (x.f.f.getLsbD 3) s) s

/-- A signed displacement in bundles from the bundle being issued. -/
def Core.disp (c : Core) (bits v : Nat) : Word := c.work.pc + BitVec.ofInt 64 (32 * toSigned bits v)

/-- CHK: a poisoned A diverts issue to the recovery bundle (R162). -/
def chkBody (x : Ctx) (s : State) : State :=
  let c := x.core s
  if c.srcPoison x.f.a then
    s.onCore x.p fun c => { c with work := { c.work with recov := some (c.disp 12 (dispDB x.f)) } }
  else s

open Host (Outcome)

def execLd (f : Fields) (s : State) : Outcome State Fault Refusal := .next (slotExec (.ld f) f ldBody s)
def execSt (f : Fields) (s : State) : Outcome State Fault Refusal := .next (slotExec (.st f) f stBody s)
def execLdt (f : Fields) (s : State) : Outcome State Fault Refusal := .next (slotExec (.ldt f) f ldtBody s)
def execLdx (f : Fields) (s : State) : Outcome State Fault Refusal := .next (slotExec (.ldx f) f ldxBody s)
def execChk (f : Fields) (s : State) : Outcome State Fault Refusal := .next (slotExec (.chk f) f chkBody s)

end Sys2Proof.Machine
end

