-- ==== Sys2Proof/Machine/Control.lean ====
section
/-! DEFINITION. Branches, loops, bank release, yields and software traps (R96, R100, R102, R163 to R167). -/

namespace Sys2Proof.Machine

/-- A taken branch: its target issues fourth after it (R96). -/
def takeBranch (x : Ctx) (target : Word) (s : State) : State :=
  s.onCore x.p fun c => { c with work := { c.work with brq := c.work.brq ++ [⟨target, 4, c.work.pc⟩] } }

/-- BR (R163). -/
def brBody (x : Ctx) (s : State) : State := takeBranch x ((x.core s).disp 18 (dispDAB x.f)) s

/-- BRL also writes a15 := b + 128, its tag unchanged (R163). -/
def brlBody (x : Ctx) (s : State) : State :=
  let c := x.core s
  takeBranch x (c.disp 18 (dispDAB x.f)) (putS x 1 47 (c.work.pc + 128) false 0 s)

/-- JMP (R163): a poisoned target traps POISON_USE, a misaligned one MISALIGN with TINFO the target. -/
def jmpBody (x : Ctx) (s : State) : State :=
  let c := x.core s
  let t := c.srcS x.f.a
  unlessPoisoned x (c.srcPoison x.f.a) (fun s =>
    if t &&& 31 = 0 then takeBranch x t s else raiseAt x.p causeMisalign 2 t s) s

/-- RET is JMP a15 (R163). -/
def retBody (x : Ctx) (s : State) : State := jmpBody x s

/-- The end of the innermost active body that holds `b` (R102). -/
def enclosingStop (l : List Loop) (n : Nat) (b : Word) : Option Word :=
  ((List.range 4).filterMap fun k =>
    let v := l.getD k Loop.idle
    if decide (k ≠ n) && v.active && decide (v.start.toNat ≤ b.toNat) && decide (b.toNat ≤ v.stop.toNat) then some v.stop
    else none).foldl (fun acc e => match acc with
      | none => some e
      | some a => some (if e.toNat < a.toNat then e else a)) none

/-- LOOP starts level n with trip count `count` (R100, R102, R164); p8 is written as a first pass starts. What a level that it replaces had left for a resumption goes with that level (R120). -/
def startLoop (x : Ctx) (n : Nat) (count : Nat) (len stages : Nat) (s : State) : State :=
  let c := x.core s
  let b := c.work.pc
  let full := b + BitVec.ofNat 64 (32 * len)
  let outer := enclosingStop c.work.loops n b
  let cut := match outer with
    | some e => decide (e.toNat < full.toNat)
    | none => false
  let stop := if cut then outer.getD full else full
  let empty := decide (stop = b)
  let s := pushWarn x (warnIf cut warnMOD) s
  let s := putS x 1 (BitVec.ofNat 6 (48 + n)) (BitVec.ofNat 64 count) false 0 s
  let s := if 1 ≤ stages then
      (List.range 7).foldl (fun s k => putP x 1 (9 + k) 0 allOnes64 s)
        (if count = 0 then s else putP x 1 8 allOnes64 allOnes64 s)
    else s
  let lv : Loop := ⟨b + 32, stop, stages, stages - 1, decide (0 < count) && !empty⟩
  s.onCore x.p fun c =>
    { c with
      work := { c.work with loops := c.work.loops.set n lv, rrec := c.work.rrec.filter fun r => decide (r.level ≠ n) }
      skipTo := if count = 0 then some (stop + 32) else c.skipTo }

/-- LOOP (R164): a poisoned count traps. -/
def loopBody (x : Ctx) (s : State) : State :=
  let c := x.core s
  unlessPoisoned x (c.srcPoison x.f.a)
    (startLoop x x.f.b.toNat ((c.srcS x.f.a).toNat % 2 ^ 32) (x.f.d.toNat + 1) x.f.f.toNat) s

/-- BREL (R165): the release waits for the segment's commit; F[0] makes it a branch too. -/
def brelBody (x : Ctx) (s : State) : State :=
  let c := x.core s
  unlessPoisoned x (c.srcPoison x.f.a) (fun s =>
    let s := addEffect x.p (.brel ((c.srcS x.f.a).setWidth 32)) s
    if x.f.f.getLsbD 0 then takeBranch x (c.disp 12 (dispDB x.f)) s else s) s

/-- A stated run: 0 is read as 1, values above 65,536 as 65,536 (R166). -/
def statedRun (v : Word) : Nat := if v = 0 then 1 else Nat.min v.toNat 65536

/-- YIELD (R166): a mark follows its bundle, the arbiter acts at the commit. -/
def yieldBody (x : Ctx) (s : State) : State :=
  let c := x.core s
  unlessPoisoned x (c.srcPoison x.f.a)
    (fun s => markAfter x.p (addEffect x.p (.yield (statedRun (c.srcS x.f.a))) s)) s

/-- TRAP (R167): SOFT, with TINFO the operand. -/
def trapBody (x : Ctx) (s : State) : State :=
  let c := x.core s
  unlessPoisoned x (c.srcPoison x.f.a) (raiseAt x.p causeSoft 6 (c.srcS x.f.a)) s

open Host (Outcome)

def execBr (f : Fields) (s : State) : Outcome State Fault Refusal := .next (slotExec (.br f) f brBody s)
def execBrl (f : Fields) (s : State) : Outcome State Fault Refusal := .next (slotExec (.brl f) f brlBody s)
def execJmp (f : Fields) (s : State) : Outcome State Fault Refusal := .next (slotExec (.jmp f) f jmpBody s)
def execRet (f : Fields) (s : State) : Outcome State Fault Refusal := .next (slotExec (.ret f) f retBody s)
def execLoop (f : Fields) (s : State) : Outcome State Fault Refusal := .next (slotExec (.loop f) f loopBody s)
def execBrel (f : Fields) (s : State) : Outcome State Fault Refusal := .next (slotExec (.brel f) f brelBody s)
def execYield (f : Fields) (s : State) : Outcome State Fault Refusal := .next (slotExec (.yield f) f yieldBody s)
def execTrap (f : Fields) (s : State) : Outcome State Fault Refusal := .next (slotExec (.trap f) f trapBody s)

end Sys2Proof.Machine
end

