-- ==== Sys2Proof/Machine/Sync.lean ====
section
/-! DEFINITION. Barriers, timed waits and scalar atomics: value-returning instructions record their operands at issue and are performed at commit (R113, R144, R153, R168, R169). -/

namespace Sys2Proof.Machine

/-- The location of a completion object at `va` (R144, R168): a tun or a cellar, naturally aligned; the solera reserve traps PERM. -/
def objectLoc (s : State) (p va : Nat) : Except AccFault Nat :=
  match windowOf p va with
  | some (.tun _ _) | some (.cellar _ _) | some (.solera _ _) => access s p va 8 8 false
  | _ => .error .segv

/-- The location of an atomic of `n` bytes (R169, R205): any storage a core reaches; a B-plane and the solera reserve trap PERM; a pinned segment must grant reads and writes. -/
def atomicLoc (s : State) (p va n : Nat) : Except AccFault Nat :=
  match windowOf p va with
  | some (.bplane _ _) => if sameWindow p va n then .error .perm else .error .segv
  | _ =>
    match access s p va n n true with
    | .error e => .error e
    | .ok _ => access s p va n n false

/-- A value-returning instruction issues: a mark follows its bundle and the next bundle waits for its value (R113). -/
def pushValue (x : Ctx) (op : ValueOp) (after : List Nat) (cls : BitVec 2) (s : State) : State :=
  markAfter x.p (addEffect x.p (.value ⟨0, op, x.slot, none, after, cls⟩) s)

/-- BARR (R168). -/
def barrBody (x : Ctx) (s : State) : State :=
  let c := x.core s
  unlessPoisoned x (c.srcPoison x.f.a) (fun s =>
    match objectLoc s x.p (c.srcS x.f.a).toNat with
    | .error e => raiseAcc x e s
    | .ok loc => pushValue x (.barr x.f.d.toNat loc) [] 0 s) s

/-- WAITB: phase B[15:0], timeout B[47:16] (R168). -/
def waitbBody (x : Ctx) (s : State) : State :=
  let c := x.core s
  let b := (c.srcS x.f.b).toNat
  unlessPoisoned x (c.srcPoison x.f.a || c.srcPoison x.f.b) (fun s =>
    match objectLoc s x.p (c.srcS x.f.a).toNat with
    | .error e => raiseAcc x e s
    | .ok loc => pushValue x (.waitb x.f.d.toNat loc (BitVec.ofNat 16 (bitsOf b 0 16)) (bitsOf b 16 32)) [] 0 s) s

/-- The operations of AMO (Table 7.4). -/
def amoOp (float : Bool) (f : Nat) : AtomOp :=
  if float then .fadd
  else match f with
    | 1 => .min
    | 2 => .max
    | 3 => .and
    | 4 => .or
    | 5 => .xor
    | 6 => .exch
    | 7 => .cas
    | _ => .add

/-- AMO (R169): the type field A[5:4] names d, w, f32 or bf16. -/
def amoBody (x : Ctx) (s : State) : State :=
  let c := x.core s
  let t := bitsOf x.f.a.toNat 4 2
  let n := match t with
    | 0 => 8
    | 3 => 2
    | _ => 4
  let k := bitsOf x.f.a.toNat 0 4
  let op := amoOp (decide (2 ≤ t)) (x.f.f &&& 7).toNat
  let poison := c.work.poisonS (32 + k) || c.srcPoison x.f.b || (decide (op = .cas) && c.srcPoison x.f.d)
  unlessPoisoned x poison (fun s =>
    match atomicLoc s x.p (c.work.readA k).toNat n with
    | .error e => raiseAcc x e s
    | .ok loc =>
      pushValue x (.amo x.f.d.toNat op loc n (decide (t = 3)) (c.srcS x.f.b) (c.srcS x.f.d))
        (if x.f.f.getLsbD 3 then s.waitsFor x.p [loc] else []) (c.work.tagA k) (s.onCore x.p fun c => c.touch [loc])) s

open Host (Outcome)

def execBarr (f : Fields) (s : State) : Outcome State Fault Refusal := .next (slotExec (.barr f) f barrBody s)
def execWaitb (f : Fields) (s : State) : Outcome State Fault Refusal := .next (slotExec (.waitb f) f waitbBody s)
def execAmo (f : Fields) (s : State) : Outcome State Fault Refusal := .next (slotExec (.amo f) f amoBody s)

end Sys2Proof.Machine
end

