-- ==== Sys2Proof/Machine/Special.lean ====
section
/-! DEFINITION. Control registers, descriptors, and the instructions of supervisor level (R170, R171, R179). -/

namespace Sys2Proof.Machine

/-- What CRD reads (Table 7.5). -/
def controlValue (s : State) (c : Core) (n : Nat) : Word :=
  match n with
  | 0 => c.work.stat.setWidth 64
  | 1 => c.work.warn.setWidth 64
  | 2 => c.work.seed
  | 3 => c.work.sridx
  | 4 => BitVec.ofNat 64 (rrbWord c.work.vrb c.work.prb)
  | 5 => c.bown.setWidth 64
  | 6 => s.cyc
  | 7 => s.gstep
  | 8 => c.tcause
  | 9 => c.tpc
  | 10 => c.tinfo
  | 11 => c.modeWord
  | 12 => BitVec.ofNat 64 (profileWord c.work.goff c.work.body c.work.prof)
  | 13 => c.svec
  | 14 => c.ctxidWord
  | _ => c.lcore

/-- CRD (R170). -/
def crdBody (x : Ctx) (s : State) : State :=
  putS x 1 x.f.d (controlValue s (x.core s) x.f.a.toNat) false 0 s

/-- Whether a control register is written by CWR at the core's level; a write to any other is ignored (Table 7.5, R5). -/
def writable (sup : Bool) (n : Nat) : Bool :=
  if sup then !([5, 6, 7, 15].contains n) else decide (n ≤ 4)

/-- CWR (R170): visible at the next bundle. -/
def cwrBody (x : Ctx) (s : State) : State :=
  let c := x.core s
  let n := x.f.d.toNat
  unlessPoisoned x (c.srcPoison x.f.a) (fun s =>
    if writable c.sup n then pushWrite x 1 (.control n) ((c.srcS x.f.a).setWidth 2048) id s else s) s

/-- A descriptor with the bits from `lo` on replaced. -/
def setField (g : Desc) (lo len : Nat) (v : Nat) : Desc := BitVec.ofNat 1024 (setBits g.toNat lo len v)

/-- A dimension of a descriptor: count and both strides (Table 4.7). -/
def setDim (g : Desc) (d count ss ds : Nat) : Desc :=
  setField (setField (setField g (208 + 100 * d) 20 count) (228 + 100 * d) 40 ss) (268 + 100 * d) 40 ds

/-- Every count 1 and every other field 0 (Table 7.6, .clr). -/
def clearDesc : Desc := (List.range 6).foldl (fun g d => setDim g d 1 0 0) 0

/-- The row form of .dim0 (Table 7.6). -/
def rowForm (g : Desc) (count : Nat) : Desc :=
  let g := setField g 128 8 128
  let g := setDim g 0 2 128 128
  let g := setDim g 1 count 256 256
  [2, 3, 4, 5].foldl (fun g d => setDim g d 1 0 0) g

/-- A GSET form on a descriptor (Table 7.6). -/
def gsetVal (form : Nat) (bCode : BitVec 6) (a b : Nat) (g : Desc) : Desc :=
  match form with
  | 0 => setField g 0 64 a
  | 1 => setField g 64 64 a
  | 2 => setField g 144 64 a
  | 3 => setField g 128 8 a
  | 4 => if bCode = 0 then rowForm g a else setDim g 0 a b b
  | 10 => if a % 8 < 6 then setField g (228 + 100 * (a % 8)) 40 b else g
  | 11 => if a % 8 < 6 then setField g (268 + 100 * (a % 8)) 40 b else g
  | 12 => clearDesc
  | n => setDim g (n - 4) a b b

/-- GSET (R171): visible at the next bundle. -/
def gsetBody (x : Ctx) (s : State) : State :=
  let c := x.core s
  let n := x.f.d.toNat
  unlessPoisoned x (c.srcPoison x.f.a || c.srcPoison x.f.b)
    (pushWrite x 1 (.desc n)
      ((gsetVal x.f.f.toNat x.f.b (c.srcS x.f.a).toNat (c.srcS x.f.b).toNat (c.work.readG n)).setWidth 2048) id) s

/-- SRET (R179, R262): the return waits for the handler's segments to commit. At task level it traps PRIV (`runSlot`). -/
def sretBody (x : Ctx) (s : State) : State :=
  markAfter x.p (addEffect x.p (.sret (x.core s).work.pc (x.core s).work.space) s)

/-- HALT (R179): a mark follows the bundle and issue stops once every segment has committed. At task level it traps PRIV (`runSlot`). -/
def haltBody (x : Ctx) (s : State) : State := markAfter x.p (addEffect x.p .halt s)

open Host (Outcome)

def execCrd (f : Fields) (s : State) : Outcome State Fault Refusal := .next (slotExec (.crd f) f crdBody s)
def execCwr (f : Fields) (s : State) : Outcome State Fault Refusal := .next (slotExec (.cwr f) f cwrBody s)
def execGset (f : Fields) (s : State) : Outcome State Fault Refusal := .next (slotExec (.gset f) f gsetBody s)
def execSret (f : Fields) (s : State) : Outcome State Fault Refusal := .next (slotExec (.sret f) f sretBody s)
def execHalt (f : Fields) (s : State) : Outcome State Fault Refusal := .next (slotExec (.halt f) f haltBody s)

end Sys2Proof.Machine
end

