-- ==== Sys2Proof/Machine/Activity.lean ====
section
/-! DEFINITION. The activity instructions as they issue, and the compare of duplicates (R175 to R178, R181). -/

namespace Sys2Proof.Machine

/-- ACTB: the gate's address is checked as for BARR (R176). -/
def actbBody (x : Ctx) (s : State) : State :=
  let c := x.core s
  unlessPoisoned x (c.srcPoison x.f.a) (fun s =>
    match objectLoc s x.p (c.srcS x.f.a).toNat with
    | .error e => raiseAcc x e s
    | .ok loc => pushValue x (.actb x.f.d.toNat loc) [] 0 s) s

/-- The routine index of an ACTP (R177). -/
def actpIndex (f : Fields) : Nat := bitsOf f.f.toNat 0 2 * 64 + f.d.toNat

/-- The activity that an ACTP names: B[7:0] (R177); all ones, which ACTB gives where no id is free, names none, so that every such push is refused (R246; DEDUCED, log 87). -/
def actpId (b : Word) : Nat := if b = allOnes64 then 256 else b.toNat % 256

/-- ACTP (R177): poisoned sources trap, an index at or above the routine count traps SEGV; the record is pushed at commit. -/
def actpBody (x : Ctx) (s : State) : State :=
  let c := x.core s
  let idx := actpIndex x.f
  let poison := c.srcPoison x.f.a || c.srcPoison x.f.b || (List.range 6).any fun k => c.work.poisonS (52 + k)
  unlessPoisoned x poison (fun s =>
    if (s.imageOf c).routines.length ≤ idx then raiseAt x.p causeSegv 1 (BitVec.ofNat 64 idx) s
    else addEffect x.p (.push idx ((c.srcS x.f.a).setWidth 32) (actpId (c.srcS x.f.b))
      ((List.range 6).map fun k => c.work.readS (52 + k))) s) s

/-- ACTE (R178). -/
def acteBody (x : Ctx) (s : State) : State :=
  let c := x.core s
  unlessPoisoned x (c.srcPoison x.f.a) (pushValue x (.acte x.f.d.toNat ((c.srcS x.f.a).toNat % 256)) [] 0) s

/-- ACTA (R178): released at commit. -/
def actaBody (x : Ctx) (s : State) : State :=
  let c := x.core s
  unlessPoisoned x (c.srcPoison x.f.a) (addEffect x.p (.acta ((c.srcS x.f.a).toNat % 256))) s

/-- ACTS (R178). -/
def actsBody (x : Ctx) (s : State) : State :=
  let c := x.core s
  unlessPoisoned x (c.srcPoison x.f.a) (pushValue x (.acts x.f.d.toNat ((c.srcS x.f.a).toNat % 256)) [] 0) s

/-- Offsets of the core record's histogram entries (Table 18.5). -/
def histLane (l : Nat) : Nat := 4 * l
def histSub (k : Nat) : Nat := 0x100 + 4 * k
def histColumn (j : Nat) : Nat := 0x140 + 4 * j
def histScalar : Nat := 0x240

/-- The 32-bit lane `l` of a vector. -/
def lane (v : Vec) (l : Nat) : BitVec 32 := v.extractLsb' (32 * l) 32

/-- The histogram entries that a failed CMPT counts in (Table 18.3): none where the operands agree (R181). -/
def cmptDiff (cls : Nat) (x : Ctx) (c : Core) : List Nat × Bool :=
  match cls with
  | 1 =>
    let a := c.srcV x.f.a
    let b := c.srcV x.f.b
    let g := c.work.readP x.f.g.toNat
    let ls := (List.range 64).filter fun l => g.getLsbD l && decide (lane a l ≠ lane b l)
    (ls.map histLane, !ls.isEmpty || decide (c.vPoison x.f.a ≠ c.vPoison x.f.b))
  | 2 => ([histScalar], decide (c.work.readP x.f.a.toNat ≠ c.work.readP x.f.b.toNat))
  | _ => ([histScalar], decide (c.srcS x.f.a ≠ c.srcS x.f.b) || decide (c.srcPoison x.f.a ≠ c.srcPoison x.f.b))

/-- CMPT (R181). The outcome is known in the next cycle; in the vector class the guard gates lanes and never suppresses the compare. -/
def cmptBody (x : Ctx) (s : State) : State :=
  let c := x.core s
  let d := cmptDiff x.f.f.toNat x c
  addCheck x.p ⟨.cmpt, s.cyc.toNat + 1, c.work.pc, c.work.space, d.2, d.1⟩ s

open Host (Outcome)

def execActb (f : Fields) (s : State) : Outcome State Fault Refusal := .next (slotExec (.actb f) f actbBody s)
def execActp (f : Fields) (s : State) : Outcome State Fault Refusal := .next (slotExec (.actp f) f actpBody s)
def execActe (f : Fields) (s : State) : Outcome State Fault Refusal := .next (slotExec (.acte f) f acteBody s)
def execActa (f : Fields) (s : State) : Outcome State Fault Refusal := .next (slotExec (.acta f) f actaBody s)
def execActs (f : Fields) (s : State) : Outcome State Fault Refusal := .next (slotExec (.acts f) f actsBody s)
def execCmpt (f : Fields) (s : State) : Outcome State Fault Refusal := .next (slotExec (.cmpt f) f cmptBody s)

end Sys2Proof.Machine
end

