-- ==== Sys2Proof/Machine/VectorInt.lean ====
section
/-! DEFINITION. Vector integer arithmetic, compares and selects; predicate logic and moves (R185 to R187, R203, R204). -/

namespace Sys2Proof.Machine

/-- The elements of a vector in a format of width `w`, element 0 first (R43). -/
def elems (w : Nat) (v : Vec) : List Nat := unpackElems w (2048 / w) v.toNat

/-- A vector from its elements. -/
def fromElems (w : Nat) (l : List Nat) : Vec := BitVec.ofNat 2048 (packElems w l)

/-- The lane of element `e` (R43, R183). -/
def laneOf (w e : Nat) : Nat := e * w / 32

/-- The lane guard of a V-slot word. -/
def laneGuard (x : Ctx) (s : State) : Word := (x.core s).work.readP x.f.g.toNat

/-- An element-wise result: element `e` of D from element e of A, B and D. -/
def mapElems (w : Nat) (g : Nat → Nat → Nat → Nat) (a b d : Vec) : Vec :=
  fromElems w (List.zipWith (fun (p : Nat × Nat) z => g p.1 p.2 z) ((elems w a).zip (elems w b)) (elems w d))

/-- A lane-gated vector integer form (R183, R185): B and D are element operands where `readsB` and `readsD`. -/
def vecIntBody (readsB readsD : Bool) (g : Bool → Nat → Nat → Nat → Nat → Nat) (x : Ctx) (s : State) : State :=
  let c := x.core s
  let (signed, w) := match elemFmt x.f.f.toNat with
    | .int sg w => (sg, w)
    | .float f => (false, f.width)
  let poison := c.vPoison x.f.a || (readsB && c.vPoison x.f.b) || (readsD && c.vPoison x.f.d)
  let d := if readsD then c.srcV x.f.d else 0
  putV x 2 x.f.d (mapElems w (g signed w) (c.srcV x.f.a) (c.srcV x.f.b) d) (laneGuard x s) poison 0 s

/-- A number read in the signedness of the code. -/
def readInt (signed : Bool) (w a : Nat) : Int := if signed then toSigned w a else a

/-- The element results of Table 8.2. -/
def vaddElem (_ : Bool) (w a b _d : Nat) : Nat := (a + b) % 2 ^ w
def vsubElem (_ : Bool) (w a b _d : Nat) : Nat := (a + 2 ^ w - b) % 2 ^ w
def vmulElem (_ : Bool) (w a b _d : Nat) : Nat := (a * b) % 2 ^ w
def vmadElem (_ : Bool) (w a b d : Nat) : Nat := (d + a * b) % 2 ^ w
def vshlElem (_ : Bool) (w a b _d : Nat) : Nat := (a <<< (b % w)) % 2 ^ w
def vshrElem (sg : Bool) (w a b _d : Nat) : Nat :=
  if sg then wrapInt w (toSigned w a / ((2 ^ (b % w) : Nat) : Int)) else a >>> (b % w)
def vminElem (sg : Bool) (w a b _d : Nat) : Nat := if readInt sg w b < readInt sg w a then b else a
def vmaxElem (sg : Bool) (w a b _d : Nat) : Nat := if readInt sg w a < readInt sg w b then b else a
def vabsElem (_ : Bool) (w a _b _d : Nat) : Nat := (toSigned w a).natAbs % 2 ^ w
def vpcntElem (_ : Bool) (w a _b _d : Nat) : Nat := popCount w a

def vaddBody (x : Ctx) (s : State) : State := vecIntBody true false vaddElem x s
def vsubBody (x : Ctx) (s : State) : State := vecIntBody true false vsubElem x s
def vmulBody (x : Ctx) (s : State) : State := vecIntBody true false vmulElem x s
def vmadBody (x : Ctx) (s : State) : State := vecIntBody true true vmadElem x s
def vandBody (x : Ctx) (s : State) : State := vecIntBody true false (fun _ _ a b _ => a &&& b) x s
def vorBody (x : Ctx) (s : State) : State := vecIntBody true false (fun _ _ a b _ => a ||| b) x s
def vxorBody (x : Ctx) (s : State) : State := vecIntBody true false (fun _ _ a b _ => a ^^^ b) x s
def vshlBody (x : Ctx) (s : State) : State := vecIntBody true false vshlElem x s
def vshrBody (x : Ctx) (s : State) : State := vecIntBody true false vshrElem x s
def vminBody (x : Ctx) (s : State) : State := vecIntBody true false vminElem x s
def vmaxBody (x : Ctx) (s : State) : State := vecIntBody true false vmaxElem x s
def vabsBody (x : Ctx) (s : State) : State := vecIntBody false false vabsElem x s
def vpcntBody (x : Ctx) (s : State) : State := vecIntBody false false vpcntElem x s

/-- Bit `l` says whether every element of lane l passes (R186). -/
def laneAll (w : Nat) (l : List Bool) : Word :=
  let k := 32 / w
  maskOf fun n => (List.range k).all fun j => l.getD (n * k + j) false

/-- The conditions of VCMP (R186). -/
def vcmpElem (cond : Nat) (sg : Bool) (w a b : Nat) : Bool :=
  match cond with
  | 1 => decide (a ≠ b)
  | 2 => decide (readInt sg w a < readInt sg w b)
  | 3 => decide (readInt sg w b ≤ readInt sg w a)
  | _ => decide (a = b)

/-- A lane of a format narrower than a lane passes when every element does; an i4 to i32 format always fits (R186). -/
def laneTest (w : Nat) (t : Nat → Nat → Bool) (a b : Vec) : Word := laneAll w (List.zipWith t (elems w a) (elems w b))

/-- VCMP (R186): a poisoned source traps where some lane is active. -/
def vcmpBody (x : Ctx) (s : State) : State :=
  let c := x.core s
  let (sg, w) := match elemFmt x.f.f.toNat with
    | .int sg w => (sg, w)
    | .float f => (false, f.width)
  unlessPoisoned x (decide (laneGuard x s ≠ 0) && (c.vPoison x.f.a || c.vPoison x.f.b))
    (putP x 2 (bitsOf x.f.d.toNat 0 4)
      (laneTest w (vcmpElem (bitsOf x.f.d.toNat 4 2) sg w) (c.srcV x.f.a) (c.srcV x.f.b)) (laneGuard x s)) s

/-- VSEL (R187): G names the selector, every lane is written; poison comes only from an operand that some lane selects (R184). -/
def vselBody (x : Ctx) (s : State) : State :=
  let c := x.core s
  let n := laneGuard x s
  let poison := (decide (n ≠ 0) && c.vPoison x.f.a) || (decide (n ≠ allOnes64) && c.vPoison x.f.b)
  putV x 2 x.f.d (mergeMask (laneMask n) (c.srcV x.f.b) (c.srcV x.f.a)) allOnes64 poison 0 s

/-- The operations of PLOG (R203). -/
def plogVal (f : Nat) (a b : Word) : Word :=
  match f with
  | 1 => a ||| b
  | 2 => a ^^^ b
  | 3 => a &&& ~~~b
  | 4 => a ||| ~~~b
  | 5 => ~~~(a &&& b)
  | 6 => ~~~(a ||| b)
  | 7 => ~~~(a ^^^ b)
  | _ => a &&& b

/-- PLOG (R203). -/
def plogBody (x : Ctx) (s : State) : State :=
  let r := (x.core s).work
  putP x 2 x.f.d.toNat (plogVal x.f.f.toNat (r.readP x.f.a.toNat) (r.readP x.f.b.toNat)) (laneGuard x s) s

/-- The lowest set bit alone, or 0 (R204). -/
def lowestBit (w : Word) : Word := w &&& (0 - w)

/-- PMOV (R204): forms 0 and 1 are lane-gated, the others use bit 0 of the guard for the whole instruction. -/
def pmovBody (x : Ctx) (s : State) : State :=
  let c := x.core s
  let g := laneGuard x s
  let on := g.getLsbD 0
  let a := c.srcV x.f.a
  let pa := c.work.readP x.f.a.toNat
  match x.f.f.toNat with
  | 0 => unlessPoisoned x (decide (g ≠ 0) && c.vPoison x.f.a) (putP x 2 x.f.d.toNat (maskOf fun l => decide (lane a l ≠ 0)) g) s
  | 1 => putV x 2 x.f.d (laneMask pa) g false 0 s
  | 2 => if on then putP x 2 x.f.d.toNat (allBits (c.vPoison x.f.a)) allOnes64 s else s
  | 3 => if on then putP x 2 x.f.d.toNat (lowestBit pa) allOnes64 s else s
  | 4 => if on then putV x 2 x.f.d (pa.setWidth 2048) allOnes64 false 0 s else s
  | _ => if on then unlessPoisoned x (c.vPoison x.f.a) (putP x 2 x.f.d.toNat (a.setWidth 64) allOnes64) s else s

open Host (Outcome)

def execVadd (u : VUnit) (f : Fields) (s : State) : Outcome State Fault Refusal := .next (slotExec (.vadd u f) f vaddBody s)
def execVsub (u : VUnit) (f : Fields) (s : State) : Outcome State Fault Refusal := .next (slotExec (.vsub u f) f vsubBody s)
def execVmul (u : VUnit) (f : Fields) (s : State) : Outcome State Fault Refusal := .next (slotExec (.vmul u f) f vmulBody s)
def execVmad (u : VUnit) (f : Fields) (s : State) : Outcome State Fault Refusal := .next (slotExec (.vmad u f) f vmadBody s)
def execVand (u : VUnit) (f : Fields) (s : State) : Outcome State Fault Refusal := .next (slotExec (.vand u f) f vandBody s)
def execVor (u : VUnit) (f : Fields) (s : State) : Outcome State Fault Refusal := .next (slotExec (.vor u f) f vorBody s)
def execVxor (u : VUnit) (f : Fields) (s : State) : Outcome State Fault Refusal := .next (slotExec (.vxor u f) f vxorBody s)
def execVshl (u : VUnit) (f : Fields) (s : State) : Outcome State Fault Refusal := .next (slotExec (.vshl u f) f vshlBody s)
def execVshr (u : VUnit) (f : Fields) (s : State) : Outcome State Fault Refusal := .next (slotExec (.vshr u f) f vshrBody s)
def execVmin (u : VUnit) (f : Fields) (s : State) : Outcome State Fault Refusal := .next (slotExec (.vmin u f) f vminBody s)
def execVmax (u : VUnit) (f : Fields) (s : State) : Outcome State Fault Refusal := .next (slotExec (.vmax u f) f vmaxBody s)
def execVabs (u : VUnit) (f : Fields) (s : State) : Outcome State Fault Refusal := .next (slotExec (.vabs u f) f vabsBody s)
def execVcmp (u : VUnit) (f : Fields) (s : State) : Outcome State Fault Refusal := .next (slotExec (.vcmp u f) f vcmpBody s)
def execVsel (u : VUnit) (f : Fields) (s : State) : Outcome State Fault Refusal := .next (slotExec (.vsel u f) f vselBody s)
def execPlog (u : VUnit) (f : Fields) (s : State) : Outcome State Fault Refusal := .next (slotExec (.plog u f) f plogBody s)
def execPmov (u : VUnit) (f : Fields) (s : State) : Outcome State Fault Refusal := .next (slotExec (.pmov u f) f pmovBody s)
def execVpcnt (u : VUnit) (f : Fields) (s : State) : Outcome State Fault Refusal := .next (slotExec (.vpcnt u f) f vpcntBody s)

end Sys2Proof.Machine
end

