-- ==== Sys2Proof/Machine/VectorMem.lean ====
section
/-! DEFINITION. Vector loads, stores and atomics (R105, R195 to R200, R205, R206). -/

namespace Sys2Proof.Machine

/-- The numbers of the active lanes, ascending. -/
def activeLanes (g : Word) : List Nat := (List.range 64).filter fun l => g.getLsbD l

/-- The address register of a vector access: A[3:0] (R195). -/
def vecAddr (x : Ctx) (c : Core) : Word := c.work.readA (x.f.a.toNat % 16)

/-- Its alias class (R195). -/
def vecTag (x : Ctx) (c : Core) : BitVec 2 := c.work.tagA (x.f.a.toNat % 16)

/-- POISON_USE for a poisoned address register, whatever the lane guard (R195; DEDUCED, log 34: R196 reads it for the increment even with every lane inactive). -/
def withVecAddr (x : Ctx) (k : State → State) (s : State) : State :=
  unlessPoisoned x ((x.core s).work.poisonS (32 + x.f.a.toNat % 16)) k s

/-- The size z of a contiguous access (R196). -/
def vecSize (x : Ctx) : Nat := 256 >>> (x.f.f &&& 3).toNat

/-- The first failure of a list of checks, in order. -/
def firstFailure : List (Except AccFault Nat) → Option AccFault
  | [] => none
  | .error e :: _ => some e
  | .ok _ :: l => firstFailure l

/-- The lanes of a contiguous access that touch memory: active and within the size (R196). -/
def contiguousLanes (x : Ctx) (g : Word) : List Nat := (activeLanes g).filter fun l => decide (4 * l < vecSize x)

/-- The checks of a contiguous access, lane by lane; the address must be a multiple of the size (R126, R195, R196). An access that touches no lane within its size makes no check and so does not trap on its address (DEDUCED, log 101: R195 checks the accesses made, and R196 does not say that the multiple is tested without one). -/
def contiguousChecks (x : Ctx) (write : Bool) (g : Word) (s : State) : List (Except AccFault Nat) :=
  let a := vecAddr x (x.core s)
  (contiguousLanes x g).map fun l =>
    match access s x.p (a + BitVec.ofNat 64 (4 * l)).toNat 4 1 write with
    | .error e => .error e
    | .ok loc => if a.toNat % vecSize x = 0 then .ok loc else .error .misalign

/-- The locations that passed their checks. -/
def okLocs (l : List (Except AccFault Nat)) : List Nat :=
  l.filterMap fun r => match r with
    | .ok n => some n
    | .error _ => none

/-- The bytes of lanes, `n` each, with their places in a vector. -/
def laneBytes (n : Nat) (lanes locs : List Nat) : List (Nat × Nat) :=
  (lanes.zip locs).flatMap fun (l, loc) => seqBytes loc n (32 * l)

/-- A vector load goes to its destination: a v register in the lanes of the guard, an e register, or nothing (R72, R183). -/
def vecLoad (x : Ctx) (lat hw : Nat) (bytes : List (Nat × Nat)) (ext : Extend) (timed spec : Bool) (form : LoadForm) (g : Word) (s : State) : State :=
  let c := x.core s
  let n := x.f.d.toNat
  let ma := x.f.f.getLsbD 3
  if 56 ≤ n then discardLoad x (vecTag x c) bytes s
  else if 48 ≤ n then pushLoad x lat hw (.scale (n - 48)) (laneToByteMask g) bytes ext (vecTag x c) timed ma spec form s
  else pushLoad x lat hw (.vector (c.work.physV n)) g bytes ext (vecTag x c) timed ma spec form s

/-- The post-increment by B, signed, in 32-byte units; a step of 0 writes nothing (R196, log 16). -/
def postIncrement (x : Ctx) (s : State) : State :=
  if x.f.b = 0 then s
  else
    putS x 1 (BitVec.ofNat 6 (32 + x.f.a.toNat % 16))
      (vecAddr x (x.core s) + BitVec.ofInt 64 (32 * toSigned 6 x.f.b.toNat)) false 0 s

/-- The load part of VLD, VLDT and VLDX (R196, R197). -/
def contiguousLoad (lat : Nat) (timed spec : Bool) (x : Ctx) (s : State) : State :=
  let g := laneGuard x s
  let checks := contiguousChecks x false g s
  let lanes := contiguousLanes x g
  let bytes := laneBytes 4 lanes (okLocs checks)
  let poisoned := putV x lat x.f.d 0 g true 0
  if g = 0 then s
  else match firstFailure checks with
    | some e => if spec && decide (e ≠ .misalign) then poisoned s else raiseAcc x e s
    | none =>
      if spec && !s.heldAtBank x.p (x.f.f.getLsbD 3) (vecTag x (x.core s)) (bytes.map (·.1)) && bytes.any (fun b => s.loadBad x.p b.1) then poisoned s
      else vecLoad x lat 6 bytes .zero timed spec .plain g s

/-- VLD (R196). -/
def vldBody (x : Ctx) (s : State) : State :=
  withVecAddr x (fun s => postIncrement x (contiguousLoad (x.core s).ldLatency false false x s)) s

/-- VLDX (R196). -/
def vldxBody (x : Ctx) (s : State) : State :=
  withVecAddr x (fun s => postIncrement x (contiguousLoad (x.core s).ldLatency false true x s)) s

/-- VLDT: no post-increment; visible at i + B, with 0 executed as 1 (R197). -/
def vldtBody (x : Ctx) (s : State) : State :=
  withVecAddr x (contiguousLoad (if x.f.b = 0 then 1 else x.f.b.toNat) true false x) s

/-- The bytes that lanes store: the low `n` bytes of each lane, in ascending lane order. -/
def laneStores (n : Nat) (d : Vec) (lanes locs : List Nat) : List (Nat × Byte) :=
  (lanes.zip locs).flatMap fun (l, loc) => bytesAt loc (toBytes n (lane d l).toNat)

/-- VST (R196). -/
def vstBody (x : Ctx) (s : State) : State :=
  withVecAddr x (fun s =>
    let c := x.core s
    let g := laneGuard x s
    let checks := contiguousChecks x true g s
    unlessPoisoned x (decide (g ≠ 0) && c.vPoison x.f.d) (fun s =>
      match firstFailure checks with
      | some e => raiseAcc x e s
      | none =>
        postIncrement x (pushStore x (laneStores 4 (c.srcV x.f.d) (contiguousLanes x g) (okLocs checks)) (vecTag x c) 1
          (x.f.f.getLsbD 3) s)) s) s

/-- An access that must lie in the own barrel window: the own B-plane window traps PERM, any other address SEGV (R198, R200, R217). -/
def ownBarrel (s : State) (p va n align : Nat) (write : Bool) : Except AccFault Nat :=
  match windowOf p va with
  | some (.barrel _ _) => if va < 0x80000 then access s p va n align write else .error .segv
  | some (.bplane _ _) => if va < 0xC0000 then .error .perm else .error .segv
  | _ => .error .segv

/-- A trap of a per-lane form names its lane (R195, Table 15.7). -/
def raiseLane (x : Ctx) (lanes : List Nat) (checks : List (Except AccFault Nat)) (k : State → State) (s : State) : State :=
  match (lanes.zip checks).find? fun (_, r) => match r with
    | .error _ => true
    | .ok _ => false with
  | some (l, .error e) => raiseAt x.p e.cause 0 (slotInfo x.slot l) s
  | _ => k s

/-- The address of each indexed lane: a[A] plus the signed index (R198, R205). -/
def indexedVA (x : Ctx) (c : Core) (l : Nat) : Nat := (vecAddr x c + (lane (c.srcV x.f.b) l).signExtend 64).toNat

/-- Passes beyond the first of a gather or scatter: at most 2 lanes of a bank per wheel turn (R105). -/
def extraPasses (locs : List Nat) : Nat :=
  let most := locs.foldl (fun n a => Nat.max n (locs.countP fun b => decide (bankOf a = bankOf b))) 0
  ceilDiv most 2 - 1

/-- Issue is held for 8 cycles for each extra pass (R105). -/
def holdPasses (p : Nat) (locs : List Nat) (s : State) : State :=
  let e := extraPasses locs
  if e = 0 then s
  else s.onCore p fun c => { c with holdUntil := Nat.max c.holdUntil (s.cyc.toNat + 1) + 8 * e }

/-- The access size of an indexed form (R198). -/
def indexedSize (f : BitVec 4) : Nat :=
  match (f &&& 3).toNat with
  | 0 => 4
  | 1 => 2
  | _ => 1

/-- VGATH (R198). A discarded one holds no issue for its passes: R98 says so of every discarded load (log 72). -/
def vgathBody (x : Ctx) (s : State) : State :=
  withVecAddr x (fun s =>
    let c := x.core s
    let g := laneGuard x s
    let n := indexedSize x.f.f
    let lanes := activeLanes g
    let checks := lanes.map fun l => ownBarrel s x.p (indexedVA x c l) n n false
    if g = 0 then s
    else unlessPoisoned x (c.vPoison x.f.b) (raiseLane x lanes checks (fun s =>
      let locs := okLocs checks
      let t := vecLoad x c.gatherLatency 8 (laneBytes n lanes locs) (if x.f.f &&& 3 = 3 then .laneBytes else .zero) false false .perLane g s
      if 56 ≤ x.f.d.toNat then t else holdPasses x.p locs t)) s) s

/-- VSCAT: lane writes enter co in ascending lane order; ⌈a/8⌉ cask entries (R198, R199). -/
def vscatBody (x : Ctx) (s : State) : State :=
  withVecAddr x (fun s =>
    let c := x.core s
    let g := laneGuard x s
    let n := indexedSize x.f.f
    let lanes := activeLanes g
    let checks := lanes.map fun l => ownBarrel s x.p (indexedVA x c l) n n true
    if g = 0 then s
    else unlessPoisoned x (c.vPoison x.f.b || c.vPoison x.f.d) (raiseLane x lanes checks (fun s =>
      let locs := okLocs checks
      holdPasses x.p locs
        (pushStore x (laneStores n (c.srcV x.f.d) lanes locs) (vecTag x c) (ceilDiv lanes.length 8) (x.f.f.getLsbD 3) s))) s) s

/-- VLDE: 64 scales from a[A] + 64·B, of which the active ones are read (R183, R200). No older access at the banks holds it (Table 5.1). -/
def vldeBody (x : Ctx) (s : State) : State :=
  withVecAddr x (fun s =>
    let c := x.core s
    let g := laneGuard x s
    if g = 0 then s
    else match ownBarrel s x.p (vecAddr x c + BitVec.ofNat 64 (64 * x.f.b.toNat)).toNat 64 64 false with
      | .error e => raiseAcc x e s
      | .ok loc => pushLoad x 2 2 (.scale (x.f.d.toNat - 48)) g ((activeLanes g).map fun l => (loc + l, 8 * l)) .zero (vecTag x c) false false
        false .aside s) s

/-- The operations of VAMO; f32 only adds (R205). -/
def vamoOp (f a : Nat) : AtomOp :=
  if f % 4 = 2 then .fadd
  else match a / 16 with
    | 1 => if f % 4 = 1 then .minu else .min
    | 2 => if f % 4 = 1 then .maxu else .max
    | 3 => .or
    | _ => .add

/-- A VAMO that V0 of the same bundle has recorded: a segment ends after a value-returning bundle, so it is the open segment's (R113, R206). -/
def earlierVamo (x : Ctx) (c : Core) : Option ValueReq :=
  if x.slot = 3 then c.seg.effects.findSome? fun e => match e with
    | .value r => match r.op with
      | .vamo _ _ _ _ => if r.slot = 2 then some r else none
      | _ => none
    | _ => none
  else none

/-- The lanes in which two copies of a VAMO disagree (R206); all of them when the address values or the operations differ. -/
def vamoDiff (op : AtomOp) (base : Word) (lanes : List (Nat × Nat × Word × Word)) : ValueOp → List Nat
  | .vamo _ op' base' lanes' =>
    if decide (op ≠ op') || decide (base ≠ base') then List.range 64
    else (List.range 64).filter fun l => decide (lanes.find? (fun q => decide (q.1 = l)) ≠ lanes'.find? (fun q => decide (q.1 = l)))
  | _ => []

/-- The second copy joins the first: both destinations receive the value of the single operation (R113). -/
def joinTwin (d : Nat) (g : Segment) : Segment :=
  { g with effects := g.effects.map fun e => match e with
      | .value r => match r.op with
        | .vamo _ _ _ _ => .value { r with twin := some d }
        | _ => e
      | _ => e }

/-- VAMO (R205, R206). -/
def vamoBody (x : Ctx) (s : State) : State :=
  withVecAddr x (fun s =>
    let c := x.core s
    let g := laneGuard x s
    let lanes := activeLanes g
    let checks := lanes.map fun l => atomicLoc s x.p (indexedVA x c l) 4
    if g = 0 then s
    else unlessPoisoned x (c.vPoison x.f.b || c.vPoison x.f.d) (raiseLane x lanes checks (fun s =>
      let locs := okLocs checks
      let reqs := (lanes.zip locs).map fun (l, loc) =>
        (l, loc, (lane (c.srcV x.f.b) l).setWidth 64, (lane (c.srcV x.f.d) l).setWidth 64)
      let d := if x.f.d.toNat ≤ 47 then c.work.physV x.f.d.toNat else x.f.d.toNat
      let op := vamoOp x.f.f.toNat x.f.a.toNat
      let base := vecAddr x c
      let after := if x.f.f.getLsbD 3 then s.waitsFor x.p locs else []
      let s := s.onCore x.p fun c => c.touch locs
      match earlierVamo x c with
      | none => markAfter x.p (addEffect x.p (.value ⟨0, .vamo d op base reqs, x.slot, none, after, vecTag x c⟩) s)
      | some r =>
        let diff := vamoDiff op base reqs r.op
        addCheck x.p ⟨.atomicPair, s.cyc.toNat + 1, c.work.pc, c.work.space, !diff.isEmpty, diff.map fun l => 4 * l⟩
          (s.onCore x.p fun c => { c with seg := joinTwin d c.seg }))) s) s

open Host (Outcome)

def execVld (u : VUnit) (f : Fields) (s : State) : Outcome State Fault Refusal := .next (slotExec (.vld u f) f vldBody s)
def execVst (u : VUnit) (f : Fields) (s : State) : Outcome State Fault Refusal := .next (slotExec (.vst u f) f vstBody s)
def execVldt (u : VUnit) (f : Fields) (s : State) : Outcome State Fault Refusal := .next (slotExec (.vldt u f) f vldtBody s)
def execVldx (u : VUnit) (f : Fields) (s : State) : Outcome State Fault Refusal := .next (slotExec (.vldx u f) f vldxBody s)
def execVgath (u : VUnit) (f : Fields) (s : State) : Outcome State Fault Refusal := .next (slotExec (.vgath u f) f vgathBody s)
def execVscat (u : VUnit) (f : Fields) (s : State) : Outcome State Fault Refusal := .next (slotExec (.vscat u f) f vscatBody s)
def execVlde (u : VUnit) (f : Fields) (s : State) : Outcome State Fault Refusal := .next (slotExec (.vlde u f) f vldeBody s)
def execVamo (u : VUnit) (f : Fields) (s : State) : Outcome State Fault Refusal := .next (slotExec (.vamo u f) f vamoBody s)

end Sys2Proof.Machine
end

