-- ==== Sys2Proof/Machine/Press.lean ====
section
/-! DEFINITION. The press: the M-slot operations on tiles, and what an OPA-queue entry does when it is applied (R61 to R63, R112, R207 to R217). -/

namespace Sys2Proof.Machine

/-- The rank of a press format (Table 9.2). -/
def pressRank (fmt : Nat) : Nat :=
  match fmt with
  | 6 => 4
  | 7 | 8 => 1
  | _ => 2

/-- The residues and the count of a cell after one product (R61, R211). -/
def Cell.residueStep (c : Cell) (p : Int) : Cell :=
  let m (r : BitVec 9) (k : Nat) : BitVec 9 := BitVec.ofInt 9 (((r.toNat : Int) + p) % (k : Int))
  { c with
    w0 := m c.w0 509
    w1 := m c.w1 511
    w2 := m c.w2 512
    k := m c.k 507
    cnt := if c.cnt.toNat < 8191 then c.cnt + 1 else c.cnt }

/-- One product of a cell, with the STAT bits it raises (R211). -/
def Cell.step (c : Cell) (fmt x y : Nat) : Cell × BitVec 6 :=
  match elemFmt fmt with
  | .float f =>
    let r := FloatFmt.fa48.fused (f.read x) (f.read y) (FloatFmt.fa48.read c.main.toNat)
    ({ c with main := BitVec.ofNat 48 r.1, int := false }, r.2)
  | .int _ w => (c.residueStep (toSigned w x * toSigned w y), 0)

/-- The `r` products of a cell in the order of R211. -/
def Cell.steps (c : Cell) (fmt : Nat) (xy : List (Nat × Nat)) : Cell × BitVec 6 :=
  xy.foldl (fun (acc : Cell × BitVec 6) (x, y) =>
    let r := acc.1.step fmt x y
    (r.1, acc.2 ||| r.2)) (c, 0)

/-- A tile whose cells are mapped, the raised bits going into PEND (R208); applying an entry sets the dirty bit (R264). -/
def Tile.mapCells (t : Tile) (f : Nat → Cell → Cell × BitVec 6) : Tile :=
  let l := (Store.dense Cell.zero 4096 0 t.cells).zipIdx.map fun (c, k) => f k c
  { t with
    cells := Store.sparse Cell.zero 0 (l.map (·.1))
    pend := l.foldl (fun b r => b ||| r.2) t.pend
    dirty := true }

/-- An OPA entry applied (R209, R211): `row` holds the 128 bytes of the B-plane row. -/
def Tile.opa (t : Tile) (fmt : Nat) (high : Bool) (col : Vec) (row : Nat) : Tile :=
  let r := pressRank fmt
  let w := fmtWidth fmt
  let a := elems w col
  let b := unpackElems w (1024 / w) row
  t.mapCells fun k c =>
    c.steps fmt ((List.range r).map fun n =>
      (a.getD (64 * r * bit high + 64 * n + k / 64) 0, b.getD (64 * n + k % 64) 0))

/-- The signed reading of MAIN as INT48 (Table 9.1). -/
def Cell.int48 (c : Cell) : Int := toSigned 48 c.main.toNat

/-- ZLD applied (R214). -/
def Tile.zld (t : Tile) (row : Nat) (int : Bool) (v : Vec) : Tile :=
  let t' := t.mapCells fun k c =>
    if k / 64 = row then
      let x := (lane v (k % 64)).toNat
      (⟨if int then BitVec.ofInt 48 (toSigned 32 x)
        else BitVec.ofNat 48 (FloatFmt.fa48.round .rne (FloatFmt.f32.read x)).1, 0, 0, 0, 0, 0, int⟩, 0)
    else (c, 0)
  { t' with lost := t.lost.filter fun k => decide (k / 64 ≠ row) }

/-- One cell of a ZFLUSH entry (R216). -/
def Cell.flush (c : Cell) (scale : Option Nat) (v : Int) : Cell × BitVec 6 :=
  match scale with
  | none =>
    let r := roundInt (intRange true 48).1 (intRange true 48).2 .rne (XReal.ofInt (c.int48 + v))
    (⟨BitVec.ofInt 48 r.1, 0, 0, 0, 0, 0, true⟩, r.2)
  | some e =>
    if e = 0xFF then (⟨BitVec.ofNat 48 FloatFmt.fa48.canon, 0, 0, 0, 0, 0, false⟩, statIV)
    else
      let r := FloatFmt.fa48.sum (FloatFmt.fa48.read c.main.toNat) ((XReal.ofInt v).scale ((e : Int) - 127))
      (⟨BitVec.ofNat 48 r.1, 0, 0, 0, 0, 0, false⟩, r.2)

/-- A ZFLUSH entry applied (R216). -/
def Tile.flush (t : Tile) (scales : Option Scales) (vals : Store Int) : Tile :=
  let vs := Store.dense 0 4096 0 vals
  let t' := t.mapCells fun k c => c.flush (scales.map fun e => scaleOf e (k % 64)) (vs.getD k 0)
  t'
where
  /-- Scale j of a block-scale register (R60). -/
  scaleOf (e : Scales) (j : Nat) : Nat := (e.extractLsb' (8 * j) 8).toNat

/-- A tile after ZCLR has been applied to it (R213). -/
def Tile.cleared : Tile := { Tile.zero with dirty := true }

/-- The tiles an entry writes. -/
def TileOp.tiles : TileOp → List Nat
  | .opa t _ _ _ _ _ _ => [t]
  | .zclr all t => if all then List.range 8 else [t]
  | .zld t _ _ _ => [t]
  | .zflush t _ _ => [t]
  | .store _ | .lost _ _ => []

/-- The 128 bytes of a B-plane row as the press reads them. -/
def pressRow (s : State) (loc : Nat) : Nat := s.readNat loc 128

/-- The bundle whose entry the press cannot apply: its row, or a word of the entry itself, holds uncorrectable data (R310, R311). -/
def TileOp.bad (o : TileOp) (s : State) : Option (Word × Bool) :=
  match o with
  | .opa _ _ _ _ row pc space => if (List.range 128).any fun k => s.isPoisoned (row + k) then some (pc, space) else none
  | .lost pc space => some (pc, space)
  | _ => none

/-- An entry that touches a row which waits for its scrub is held at the bank (R310). -/
def TileOp.scrubHeld (o : TileOp) (s : State) : Bool :=
  match o with
  | .opa _ _ _ _ row _ _ => s.scrubs row
  | .store e => e.bytes.any fun (a, _) => s.scrubs a
  | _ => false

/-- The entry's effect on the tiles of core `p` (R211, R213, R214, R216), and on memory for a store of the own B-plane in its place (R210). -/
def applyOp (s : State) (p : Nat) (o : TileOp) : State :=
  let upd (t : Nat) (f : Tile → Tile) (s : State) : State :=
    s.onCore p fun c => { c with tiles := Store.put c.tiles t (f (c.tile t)) }
  match o with
  | .opa t fmt high col row _ _ => upd t (fun z => z.opa fmt high col (pressRow s row)) s
  | .zclr true _ => (List.range 8).foldl (fun s t => upd t (fun _ => Tile.cleared) s) s
  | .zclr false t => upd t (fun _ => Tile.cleared) s
  | .zld t row int v => upd t (fun z => z.zld row int v) s
  | .zflush t scales vals => upd t (fun z => z.flush scales vals) s
  | .store e => performStore p e s
  | .lost _ _ => s

/-- An entry joins the OPA queue of the open segment (R112). -/
def queueOp (p : Nat) (o : TileOp) (s : State) : State :=
  s.onCore p fun c => { c with seg := { c.seg with opas := c.seg.opas ++ [(c.work.bno, o)] } }

/-- The checks 3 and 4 of R211 for `n` rows from `va` on. -/
def opaCheck (va : Nat) (n : Nat) : Option AccFault :=
  if decide (0x80000 ≤ va) && decide (va + 128 * n ≤ 0xC0000) then
    if va % 128 = 0 then none else some .misalign
  else some .segv

/-- The value a press source field reads (R211, R214). -/
def pressSource (c : Core) (code : BitVec 6) : Vec := c.srcV code

/-- The OPA on the row at `va` by core `p`. -/
def opaEntry (c : Core) (p : Nat) (tile : Nat) (high : Bool) (col : BitVec 6) (fmt : Nat) (va : Nat) : TileOp :=
  .opa tile fmt high (pressSource c col) (coreLoc p va) c.work.pc c.work.space

/-- OPA (R211). -/
def opaBody (x : Ctx) (s : State) : State :=
  let c := x.core s
  let va := (c.srcS x.f.b).toNat
  unlessPoisoned x (c.vPoison x.f.a || c.srcPoison x.f.b) (fun s =>
    match opaCheck va 1 with
    | some e => raiseAcc x e s
    | none => queueOp x.p (opaEntry c x.p (bitsOf x.f.d.toNat 0 3) (x.f.d.getLsbD 3) x.f.a x.f.f.toNat va) s) s

/-- OPAR: the count is bits 15:0 of the literal; repetition 0 issues with the bundle, the others follow (R103, R212). -/
def oparBody (x : Ctx) (s : State) : State :=
  let c := x.core s
  let n := if c.lx then bitsOf c.lit.toNat 0 16 else 0
  let a := c.srcS x.f.b
  let va := a.toNat
  unlessPoisoned x (c.vPoison x.f.a || c.srcPoison x.f.b) (fun s =>
    if n = 0 then s
    else match opaCheck va n with
      | some e => raiseAcc x e s
      | none =>
        let tile := bitsOf x.f.d.toNat 0 3
        let high := x.f.d.getLsbD 3
        let s := queueOp x.p (opaEntry c x.p tile high x.f.a x.f.f.toNat va) s
        if n = 1 then putS x 1 x.f.b (a + 128) false 0 s
        else s.onCore x.p fun c =>
          { c with
            repAt := s.cyc.toNat + 1
            work := { c.work with
              opar := some ⟨n - 1, a + 128, tile, high, x.f.a.toNat, x.f.f, x.f.b.toNat, c.lit⟩ } }) s

/-- ZCLR (R213). -/
def zclrBody (x : Ctx) (s : State) : State := queueOp x.p (.zclr (x.f.f.getLsbD 0) x.f.d.toNat) s

/-- ZLD (R214). -/
def zldBody (x : Ctx) (s : State) : State :=
  let c := x.core s
  unlessPoisoned x (c.vPoison x.f.a || c.srcPoison x.f.b)
    (queueOp x.p (.zld x.f.d.toNat ((c.srcS x.f.b).toNat % 64) (x.f.f.getLsbD 0) (pressSource c x.f.a))) s

/-- A read of a tile: the press counts it, and the witness checks it with an outcome in the fifth cycle (R315, R117); the witness that stands in for a column checks nothing (R317). -/
def countRead (x : Ctx) (s : State) : State :=
  let c := x.core s
  let s := s.onCore x.p fun c => { c with reads := c.reads + 1 }
  if c.standIn.isSome then s
  else addCheck x.p ⟨.witness, s.cyc.toNat + 5, c.work.pc, c.work.space, false, [0x140 + 4 * (c.reads % 64)]⟩ s

/-- A read of a lost tile consumes uncorrectable data: a rollback, and UNCORRECTABLE at the second consumption at one bundle (R116, R312). -/
def withTile (x : Ctx) (t : Nat) (k : State → State) (s : State) : State :=
  let c := x.core s
  if (c.tile t).lost.isEmpty then k s
  else if c.badRec = some (c.work.pc, c.work.space) then raise x causeUncorrectable s
  else s.onCore x.p fun c => { c with seg := { c.seg with bad := some (c.work.pc, c.work.space) } }

/-- Column `j` of a ZMOV (R215). -/
def zmovElem (f : ElemFmt) (mode : RMode) (scale : Nat) (c : Cell) : Nat × BitVec 6 :=
  let v := match f with
    | .float _ => FloatFmt.fa48.read c.main.toNat
    | .int _ _ => XReal.ofInt c.int48
  f.roundScaled mode scale v

/-- ZMOV (R208, R215). -/
def zmovBody (x : Ctx) (s : State) : State :=
  let c := x.core s
  let t := bitsOf x.f.a.toNat 0 3
  let row := BitVec.ofNat 6 (bitsOf x.f.b.toNat 0 5)
  unlessPoisoned x (c.srcPoison row) (withTile x t (fun s =>
    let k := elemFmt x.f.f.toNat
    let e := c.work.readE (bitsOf x.f.a.toNat 3 3)
    let r := (c.srcS row).toNat % 64
    let sr := x.f.b.getLsbD 5
    let tile := c.tile t
    let cells := Store.dense Cell.zero 64 (64 * r) (Store.range tile.cells (64 * r) (64 * r + 64))
    let l := cells.zipIdx.map fun (q, j) =>
      zmovElem k (if sr then .sr (srWord c.work.seed (c.work.sridx + BitVec.ofNat 64 (64 * c.srUsed + j))) else .rne)
        ((e.extractLsb' (8 * j) 8).toNat) q
    countRead x (putV x 5 x.f.d (BitVec.ofNat 2048 (packElems k.width (l.map (·.1)))) allOnes64 false
      (l.foldl (fun b q => b ||| q.2) tile.pend) s))) s

/-- The value that a cell's working residues stand for (R62). -/
def Cell.value (c : Cell) : Int :=
  let x := ((c.w0.toNat * 85 % 509) * 261632 + (c.w1.toNat * 255 % 511) * 260608 + (c.w2.toNat * 171 % 512) * 260099)
    % 133170688
  if x < 66585344 then x else (x : Int) - 133170688

/-- Whether the check residue disagrees with the value (R63). -/
def Cell.disagrees (c : Cell) : Bool :=
  decide (c.cnt.toNat ≤ 4032) && decide (c.value % 507 ≠ (c.k.toNat : Int))

/-- The press sub-array of a cell (R318). -/
def subArray (k : Nat) : Nat := 4 * (k / 64 / 16) + k % 64 / 16

/-- The sub-arrays that hold a disagreeing cell (R318). -/
def Tile.badSubArrays (t : Tile) : List Nat :=
  (t.cells.filterMap fun (k, c) => if c.disagrees then some (subArray k) else none).eraseDups

/-- ZFLUSH (R62, R63, R208, R216). -/
def zflushBody (x : Ctx) (s : State) : State :=
  let c := x.core s
  let t := x.f.d.toNat
  withTile x t (fun s =>
    let tile := c.tile t
    let bad := tile.badSubArrays
    let vals := tile.cells.filterMap fun (k, q) => if q.value = 0 then none else some (k, q.value)
    let rng := if tile.cells.any fun (_, q) => decide (4032 < q.cnt.toNat) then statRNG else 0
    let scales := if x.f.f.getLsbD 0 then some (c.work.readE x.f.a.toNat) else none
    let s := addCheck x.p ⟨.residue, s.cyc.toNat + 5, c.work.pc, c.work.space, !bad.isEmpty, bad.map fun k => 0x100 + 4 * k⟩ s
    countRead x (pushStat x 5 (tile.pend ||| rng) (queueOp x.p (.zflush t scales vals) s))) s

/-- The element width of a TXQ (R217). -/
def txqWidth (f : BitVec 4) : Nat := 32 >>> (f &&& 3).toNat

/-- TXQs issued and not yet visible (R217). -/
def Core.txqs (c : Core) : Nat := c.work.pend.countP fun q => decide (q.slot = 4) && q.load.isSome

/-- TXQ (R217): the overrun is tested last, and its TINFO is zero. -/
def txqBody (x : Ctx) (s : State) : State :=
  let c := x.core s
  let p := ((c.srcS x.f.b).setWidth 32).signExtend 64
  let checks := (List.range 64).map fun l => ownBarrel s x.p (c.srcS x.f.a + BitVec.ofNat 64 l * p).toNat 4 4 false
  unlessPoisoned x (c.srcPoison x.f.a || c.srcPoison x.f.b) (fun s =>
    match firstFailure checks with
    | some e => raiseAcc x e s
    | none =>
      if 8 ≤ c.txqs then raiseAt x.p causeOverrun 0 0 s
      else
        let tag := c.work.tagA (x.f.a.toNat - 32)
        let bytes := laneBytes 4 (List.range 64) (okLocs checks)
        if x.f.d = 63 then
          discardLoad x tag bytes (pushWrite x 24 .nothing 0 (fun q =>
            { q with load := some ⟨[], tag, .zero, false, true, 0, [], false, false, false, c.work.pc, c.work.space, [], .plain, 0, []⟩ }) s)
        else
          pushLoad x 24 24 (.vector (c.work.physV x.f.d.toNat)) allOnes64 bytes (.transpose (txqWidth x.f.f)) tag false false false .plain s) s

open Host (Outcome)

def execOpa (f : Fields) (s : State) : Outcome State Fault Refusal := .next (slotExec (.opa f) f opaBody s)
def execOpar (f : Fields) (s : State) : Outcome State Fault Refusal := .next (slotExec (.opar f) f oparBody s)
def execZclr (f : Fields) (s : State) : Outcome State Fault Refusal := .next (slotExec (.zclr f) f zclrBody s)
def execZmov (f : Fields) (s : State) : Outcome State Fault Refusal := .next (slotExec (.zmov f) f zmovBody s)
def execZld (f : Fields) (s : State) : Outcome State Fault Refusal := .next (slotExec (.zld f) f zldBody s)
def execZflush (f : Fields) (s : State) : Outcome State Fault Refusal := .next (slotExec (.zflush f) f zflushBody s)
def execTxq (f : Fields) (s : State) : Outcome State Fault Refusal := .next (slotExec (.txq f) f txqBody s)

end Sys2Proof.Machine
end

