-- ==== Sys2Proof/Machine/Translate.lean ====
section
/-! DEFINITION. Context-table entries, page tables, translation buffers, and the addresses of engine operations (R222, R288 to R299). -/

namespace Sys2Proof.Machine

/-- The location of a context-table entry (R289). -/
def ctxEntry (s : State) (ctx : Nat) : Nat := s.ctbase.toNat + 0x1000 * ctx

/-- The pinned segment entries that a context-table entry holds (Table 17.2); one that cannot be read is not valid (R310, log 73). -/
def loadSegs (s : State) (ctx : Nat) : Store (BitVec 256) :=
  (List.range 64).foldl (fun m n =>
    let loc := ctxEntry s ctx + 0x800 + 32 * n
    if rowsLost s loc 32 then m else Store.set 0 m n (BitVec.ofNat 256 (s.readNat loc 32))) []

/-- Whether engines that hold no copy of a context's entry meet uncorrectable data as they read it (R289, R310). -/
def tableLost (s : State) (ctx : Nat) : Bool :=
  (Store.find? s.engSegs ctx).isNone && (rowsLost s (ctxEntry s ctx) 8 || rowsLost s (ctxEntry s ctx + 0x800) 0x800)

/-- The segment copy that engines use for a context: kept from its first use to a shootdown of kind 2 (R289). -/
def engineSegs (s : State) (ctx : Nat) : Store (BitVec 256) := (Store.find? s.engSegs ctx).getD (loadSegs s ctx)

/-- The pinned segments that an engine operation's global VA resolves through: the supervisor's for one that was released at supervisor level (R256). -/
def opSegs (s : State) (sup : Bool) (ctx : Nat) : Store (BitVec 256) := if sup then s.supSegs else engineSegs s ctx

/-- The ROOT that engines use for a context, kept in the same way (R289). -/
def engineRoot (s : State) (ctx : Nat) : Nat := (Store.find? s.engRoots ctx).getD (s.readNat (ctxEntry s ctx) 8)

/-- The engines take their copy of a context's segments and ROOT. -/
def cacheSegs (s : State) (ctx : Nat) : State :=
  { s with
    engSegs := Store.put s.engSegs ctx (engineSegs s ctx)
    engRoots := Store.put s.engRoots ctx (engineRoot s ctx) }

/-- A leaf found by a walk: where its PTE stands, and what it maps. -/
structure Leaf where
  pte : Nat
  level : Nat
  va : Nat
  size : Nat
  pa : Nat
  r : Bool
  w : Bool
  cmp : Bool
  mig : Bool
  deriving DecidableEq, Repr

/-- The page size of a leaf at a level (R292). -/
def levelSize (level : Nat) : Nat := 2 ^ (39 - 9 * level)

/-- The bits of a PTE that must be zero (Table 17.4). -/
def pteReserved (x : Nat) : Bool := decide (bitsOf x 52 12 ≠ 0) || decide (bitsOf x 6 6 ≠ 0)

/-- A PTE read as a next table (R293). -/
def pteTable (cxl level x : Nat) : Option Nat :=
  let pa := bitsOf x 12 40 * 4096
  if x.testBit 0 && !pteReserved x && !x.testBit 1 && decide (level < 3) && backedPA cxl pa then some pa else none

/-- A PTE read as a leaf (R293): a misaligned or reserved PA, or a leaf at level 0, is not present. -/
def pteLeaf (cxl level loc va x : Nat) : Option Leaf :=
  let pa := bitsOf x 12 40 * 4096
  let size := levelSize level
  if x.testBit 0 && !pteReserved x && x.testBit 1 && decide (1 ≤ level) && decide (pa % size = 0) && backedPA cxl pa
      && backedPA cxl (pa + (size - 1)) then
    some ⟨loc, level, va / size * size, size, pa, x.testBit 2, x.testBit 3,
      x.testBit 4 && decide (pa < 0x100000000000), x.testBit 5⟩
  else none

/-- A walk from the table at `table` of level `level` on (R292). -/
def walkFrom (s : State) (va : Nat) : Nat → Nat → Nat → Option Leaf
  | 0, _, _ => none
  | fuel + 1, level, table =>
    let loc := table + 8 * bitsOf va (39 - 9 * level) 9
    let x := s.readNat loc 8
    match pteLeaf s.cxlSize level loc va x with
    | some l => some l
    | none => match pteTable s.cxlSize level x with
      | some t => walkFrom s va fuel (level + 1) t
      | none => none

/-- The tables below level 0 that a walk passes through, with their levels. -/
def walkTables (s : State) (va : Nat) : Nat → Nat → Nat → List (Nat × Nat)
  | 0, _, _ => []
  | fuel + 1, level, table =>
    match pteTable s.cxlSize level (s.readNat (table + 8 * bitsOf va (39 - 9 * level) 9) 8) with
    | some t => (level + 1, t) :: walkTables s va fuel (level + 1) t
    | none => []

/-- The VA range that one table of a level maps. -/
def tableSpan (level : Nat) : Nat := 512 * levelSize level

/-- Where a walk starts: at the deepest table that a cached partial walk gives, else at ROOT (R292, R295). -/
def walkStart (s : State) (ctx va : Nat) : Nat × Nat :=
  s.walks.foldl (fun acc e =>
    if decide (e.ctx = ctx) && decide (va / tableSpan e.level * tableSpan e.level = e.va) && decide (acc.1 < e.level) then (e.level, e.table)
    else acc) (0, engineRoot s ctx)

/-- Whether a context's paged space may be walked for an address (R289, R292). -/
def walkable (s : State) (ctx va : Nat) : Bool :=
  let root := engineRoot s ctx
  decide (root ≠ 0) && decide (root % 4096 = 0) && backedPA s.cxlSize root && decide (va < 2 ^ 48)

/-- Whether a walk from the table at `table` reads an entry that is uncorrectable (R310). -/
def entryLost (s : State) (va : Nat) : Nat → Nat → Nat → Bool
  | 0, _, _ => false
  | fuel + 1, level, table =>
    let loc := table + 8 * bitsOf va (39 - 9 * level) 9
    rowsLost s loc 8 || match pteTable s.cxlSize level (s.readNat loc 8) with
      | some t => entryLost s va fuel (level + 1) t
      | none => false

/-- Whether the walk for `va` in a context's paged space reads uncorrectable data (R310). -/
def walkLost (s : State) (ctx va : Nat) : Bool :=
  let b := walkStart s ctx va
  walkable s ctx va && entryLost s va (4 - b.1) b.1 b.2

/-- The leaf that maps `va` in a context's paged space; none is a not-present fault (R288, R289, R292), or a walk that cannot be read (R310). -/
def walk (s : State) (ctx va : Nat) : Option Leaf :=
  let b := walkStart s ctx va
  if walkable s ctx va && !walkLost s ctx va then walkFrom s va (4 - b.1) b.1 b.2 else none

/-- A walk leaves the tables it has passed through in the walk caches (R295). -/
def cacheWalk (s : State) (ctx va : Nat) : State :=
  let b := walkStart s ctx va
  let new : List WalkEntry := if walkable s ctx va then
      (walkTables s va (4 - b.1) b.1 b.2).map fun (l, t) => ⟨ctx, va / tableSpan l * tableSpan l, l, t⟩
    else []
  { s with walks := s.walks ++ new.filter fun e => !s.walks.contains e }

/-- The cached entry that a lookup uses: of two sizes the smaller (R299). -/
def tlbFind (s : State) (ctx va : Nat) : Option TlbEntry :=
  s.tlb.foldl (fun acc e =>
    if decide (e.ctx = ctx) && decide (e.va ≤ va) && decide (va < e.va + e.size) then
      match acc with
      | some b => if e.size < b.size then some e else acc
      | none => some e
    else acc) none

/-- Whether a lookup matches cached entries of two sizes (R299). -/
def multiHit (s : State) (ctx va : Nat) : Bool :=
  let l := s.tlb.filter fun e => decide (e.ctx = ctx) && decide (e.va ≤ va) && decide (va < e.va + e.size)
  l.any fun e => l.any fun f => decide (e.size ≠ f.size)

/-- What a lookup of `va` finds: a cached entry, or the result of a walk (R295). -/
def lookup (s : State) (ctx va : Nat) : Option TlbEntry :=
  match tlbFind s ctx va with
  | some e => some e
  | none => (walk s ctx va).map fun l => ⟨ctx, l.va, l.size, l.pa, l.r, l.w⟩

/-- Whether a lookup of `va` has to walk and meets uncorrectable data there: fault code 4 of the engine (R222, R310). -/
def lookupLost (s : State) (ctx va : Nat) : Bool := (tlbFind s ctx va).isNone && walkLost s ctx va

/-- A lookup leaves its entry and its walk in the translation buffers (R295). -/
def cacheLookup (s : State) (ctx va : Nat) : State :=
  match tlbFind s ctx va with
  | some _ => s
  | none =>
    let t := cacheWalk s ctx va
    match lookup s ctx va with
    | some e => { t with tlb := s.tlb ++ [e] }
    | none => t

/-- How an engine's access fails: a fault code of its own, or a translation fault that is offered to system software: not present, or permission (R222, R301). -/
inductive EngErr where
  | code (n : Nat)
  | paged (va : Nat) (perm : Bool)
  deriving DecidableEq, Repr

/-- The location of a byte that an engine operation of core `p` and context `ctx` accesses (R13, R124, R291, R294). One released at supervisor level reaches the supervisor's segments alone, and system software is not asked about its faults (R256, R302; DEDUCED, log 100: paged space is a context's). -/
def engLoc (s : State) (p ctx : Nat) (sup : Bool) (va : Nat) (write : Bool) : Except EngErr Nat :=
  match windowOf p va with
  | none => .error (.code 2)
  | some (.barrel q off) => .ok (coreLoc q off)
  | some (.bplane q off) => .ok (coreLoc q (0x80000 + off))
  | some (.tun c off) => .ok (tunLoc c off)
  | some (.cellar d off) => .ok (cellarLoc d off)
  | some (.solera _ _) => .error (.code 3)
  | some (.globalVA v) =>
    match findSeg (opSegs s sup ctx) v with
    | some g =>
      let pa := g.pbase + (v - g.vbase)
      if !(if write then g.w else g.r) then .error (.code 3)
      else if backedPA s.cxlSize pa then .ok pa else .error (if sup then .code 2 else .paged (v / 4096 * 4096) false)
    | none => if sup then .error (.code 2) else if lookupLost s ctx v then .error (.code 4) else match lookup s ctx v with
      | none => .error (.paged (v / 4096 * 4096) false)
      | some e => if (if write then e.w else e.r) then .ok (e.pa + (v - e.va)) else .error (.paged (v / 4096 * 4096) true)

/-- Whether an element crosses two windows or segments, or a segment's end (R222, R291). -/
def elemCrosses (s : State) (p ctx : Nat) (sup : Bool) (va n : Nat) : Bool :=
  match windowOf p va with
  | none => false
  | some (.globalVA v) =>
    match findSeg (opSegs s sup ctx) v with
    | some g => decide (g.vbase + g.size < v + n)
    | none => !sameWindow p va n || (findSeg (opSegs s sup ctx) (v + (n - 1))).isSome
  | _ => !sameWindow p va n

/-- Banks of a core that no waiting task can have yet: owned, kept by a context that has left the core, or not released yet (R106, R165, R257). -/
def heldBanks (s : State) (q : Nat) : BitVec 32 :=
  (s.core q).lateBrels.foldl (fun m b => m ||| b.1) ((s.core q).bown ||| s.keptBanks q fun _ => true)

/-- Whether a task of context `ctx` that core `q` has saved waits for a bank, and was delivered by the cycle `t` (R16, R106). -/
def savedWait (s : State) (q ctx bank t : Nat) : Bool :=
  s.extras.any fun (_, e) => match e.left with
    | some r => decide (r.core = q) && decide (r.ctx.toNat = ctx) && decide (r.delivered ≤ t) && match r.waits with
      | some banks => banks.getLsbD bank
      | none => false
    | none => false

/-- Whether engines of context `ctx` may address a barrel bank of a core: its BOWN bit is set, or it is a plan bank of the task that waits there, also of one that is saved while it waits (R18, R106), or a bank that the context keeps there (R257). -/
def bankOpen (s : State) (q ctx bank : Nat) : Bool :=
  let c := s.core q
  (decide (c.ctx.toNat = ctx) && (c.bown.getLsbD bank || (decide (c.run = .waiting) && c.nextBanks.getLsbD bank))) ||
    s.keeps q (BitVec.ofNat 12 ctx) bank || savedWait s q ctx bank s.cyc.toNat

/-- The fault of one address of an element that is found at release (R222); a paged address is translated when it is accessed (R295). -/
def addrFault (s : State) (p ctx : Nat) (sup : Bool) (va : Nat) (write : Bool) : Option Nat :=
  let ok (q : Nat) : Bool := decide (q = p) || decide ((s.core q).ctx.toNat = ctx)
  match windowOf p va with
  | none => some 2
  | some (.barrel q off) => if bankOpen s q ctx (off / 0x4000) then none else some 3
  | some (.bplane q _) => if ok q then none else some 3
  | some (.tun _ _) | some (.cellar _ _) => none
  | some (.solera _ _) => some 3
  | some (.globalVA v) =>
    match findSeg (opSegs s sup ctx) v with
    | some g =>
      if !(if write then g.w else g.r) then some 3
      else if sup && !backedPA s.cxlSize (g.pbase + (v - g.vbase)) then some 2
      else none
    | none => if sup then some 2 else none

/-- The fault of an element's address that is found at release (R222): that of its first byte, else of its last; a segment's entry is that of its first byte (R291). -/
def elemFault (s : State) (p ctx : Nat) (sup : Bool) (va n : Nat) (write : Bool) : Option Nat :=
  match addrFault s p ctx sup va write with
  | some k => some k
  | none => if va < 0x100000000 then addrFault s p ctx sup (va + (n - 1)) write else none

/-- The location of a region's first byte when the region lies within one level of Table 1.3, one segment or one page mapping, whatever accesses it admits (R31). A region of extent 0 passes at any address, with a location that nothing reads (DESIGN CHOICE, log 31: the rule does not say where its base must lie). -/
def regionLoc (s : State) (p ctx va n : Nat) : Option Nat :=
  let within (lo size loc : Nat) : Option Nat := if decide (va + n ≤ lo + size) then some (loc + (va - lo)) else none
  let level (size off loc : Nat) : Option Nat := if off + n ≤ size then some loc else none
  if n = 0 then some 0
  else match windowOf p va with
    | some (.barrel q off) => level 0x80000 off (coreLoc q off)
    | some (.bplane q off) => level 0x40000 off (coreLoc q (0x80000 + off))
    | some (.tun c off) => level 0x800000 off (tunLoc c off)
    | some (.cellar d off) => level 0x2E00000 off (cellarLoc d off)
    | some (.solera _ _) | none => none
    | some (.globalVA v) => match findSeg (engineSegs s ctx) v with
      | some g => if backedPA s.cxlSize (g.pbase + (v - g.vbase) + (n - 1)) then within g.vbase g.size g.pbase else none
      | none => (lookup s ctx v).bind fun e => within e.va e.size e.pa

end Sys2Proof.Machine
end

