-- ==== Sys2Proof/Machine/Routine.lean ====
section
/-! DEFINITION. RCALL: the decision to graft, the entry of a body and its return (R23, R25 to R31, R35 to R38). -/

namespace Sys2Proof.Machine

/-- The number of a native unit among those of its core (log 17). -/
def NativeUnit.index : NativeUnit → Nat
  | .dot => 0
  | .press => 1
  | .residue => 2
  | .reduction => 3
  | .special => 4
  | .readPath => 5
  | .copyEngine => 6

/-- The number of a core's native unit in its die's lifetime region (log 17). -/
def unitNumber (p : Nat) (u : NativeUnit) : Nat := 7 * (p % 160) + u.index

/-- Whether reliability management has mapped a core's unit out (R38, R322). -/
def mappedOut (s : State) (p : Nat) (u : NativeUnit) : Bool := (s.lifeOf (dieOf p)).mappedOut.contains (unitNumber p u)

/-- The extent in bytes of a parameter (R23). -/
def Param.extent (m : Param) (q : List Word) : Nat :=
  m.const * (if m.scale = 0 then 1 else (q.getD (m.scale - 1) 0).toNat)

/-- A comparator that is armed (R269). -/
def Core.armed (c : Core) (k : Comparator) : Bool := c.bke && k.ctl.getLsbD 0

/-- A breakpoint in the body or on the index of a routine, or single-step, disables grafting (R37). -/
def debugDisarmed (c : Core) (idx : Nat) (r : Routine) : Bool :=
  c.sstep || c.work.comps.any fun k =>
    let sp := bitsOf k.ctl.toNat 8 2
    let a := k.addr.toNat / 32
    c.armed k && ((decide (sp = 1) && decide (r.offset ≤ a) && decide (a < r.offset + r.len)) ||
      ((decide (sp = 2) || decide (bitsOf k.ctl.toNat 10 2 = 3)) && decide (bitsOf k.ctl.toNat 12 8 = idx)))

/-- A region that lies wholly in the core's own barrel, or own B-plane, through either of its windows (R38). -/
def regionIn (s : State) (p : Nat) (lo hi : Nat) (va n : Nat) : Bool :=
  match regionLoc s p (s.core p).ctx.toNat va n with
  | some loc => decide (n = 0) || (decide (coreLoc p lo ≤ loc) && decide (loc + n ≤ coreLoc p hi))
  | none => false

/-- The predicates of a graft-table entry (Table 2.6). -/
def entryPredicates (s : State) (p : Nat) (r : Routine) (e : GraftEntry) (q : List Word) : Bool :=
  let v (k : Nat) : Nat := (q.getD k 0).toNat
  let ext (k : Nat) : Nat := (r.params.getD k ⟨0, 0, 0, 0⟩).extent q
  decide (v e.countReg % e.multiple = 0) && decide (e.least ≤ v e.countReg) &&
    decide (v e.countReg ≤ e.most) && e.aligned.all (fun k => decide (v k % 256 = 0)) &&
    e.barrel.all (fun k => regionIn s p 0 0x80000 (v k) (ext k)) &&
    e.bplane.all (fun k => regionIn s p 0x80000 0xC0000 (v k) (ext k))

/-- The element size in bytes of a SIG format (R31). -/
def sigBytes (fmt : Nat) : Nat := if decide (12 ≤ fmt) || decide (fmt = 6) then 1 else fmtWidth fmt / 8

/-- Whether two regions of locations overlap. -/
def overlap (a n b m : Nat) : Bool := decide (a < b + m) && decide (b < a + n)

/-- The implicit checks of R31 over the region parameters; for a whole-grade entry no output overlaps an input. -/
def implicitChecks (s : State) (p : Nat) (r : Routine) (whole : Bool) (q : List Word) : Bool :=
  let ctx := (s.core p).ctx.toNat
  let ps := r.params.zipIdx
  let regions := ps.filterMap fun (m, k) =>
    if decide (2 ≤ m.role) && decide (m.role ≤ 4) then some (m, (q.getD k 0).toNat, m.extent q) else none
  let tiles (roles : List Nat) : List Word := ps.filterMap fun (m, k) =>
    if roles.contains m.role then some (q.getD k 0) else none
  let loc (va n : Nat) : Option Nat := regionLoc s p ctx va n
  regions.all (fun (m, va, n) => decide (va % sigBytes m.fmt = 0) && (loc va n).isSome) &&
    (!whole ||
      (!((tiles [5]).any fun t => (tiles [6, 7]).contains t) &&
        regions.all fun (m, va, n) => regions.all fun (m', va', n') =>
          decide (m.role ≠ 2) || decide (m'.role = 2) ||
            match loc va n, loc va' n' with
            | some a, some b => !overlap a n b n'
            | _, _ => true))

/-- The body writes no tile outside the output tiles that the call names: what R33 asks of a replay-safe routine, whose tile numbers come with the call. -/
def writesOutputs (i : Image) (r : Routine) (q : List Word) : Bool :=
  let outs := r.params.zipIdx.filterMap fun (m, k) => if m.role = 6 then some (q.getD k 0).toNat else none
  (bodyTiles (i.bodyOf r)).all fun t => outs.contains t

/-- graft_taken of R31: the entry when the call is grafted. -/
def graftTaken (s : State) (p idx : Nat) (r : Routine) (q : List Word) : Option GraftEntry :=
  let c := s.core p
  match r.entry with
  | none => none
  | some e =>
    if !c.work.goff && !debugDisarmed c idx r && decide (r.minGrade ≠ 2) && (e.stepGrade || decide (r.minGrade = 0))
        && (e.stepGrade || (r.replaySafe && writesOutputs (s.imageOf c) r q)) && !mappedOut s p e.unit && entryPredicates s p r e q
        && implicitChecks s p r (!e.stepGrade) q then some e
    else none

/-- Every tile destination of the body is the value of a tile parameter (R25, R27). -/
def tilesAllowed (i : Image) (r : Routine) (q : List Word) : Bool :=
  let given := r.params.zipIdx.filterMap fun (m, k) =>
    if decide (5 ≤ m.role) && decide (m.role ≤ 7) then some (q.getD k 0).toNat else none
  (bodyTiles (i.bodyOf r)).all fun t => given.contains t

/-- RCALL as its bundle issues (R27, R219): a grafted call is queued for the segment's commit; an ungrafted one enters the body as the bundle ends. -/
def rcallBody (x : Ctx) (s : State) : State :=
  let c := x.core s
  let idx := rcallIndex x.f
  let n := x.f.d.toNat
  let q := c.callQ.getD c.work.queue
  let i := s.imageOf c
  if c.work.frames.length = 4 then raise x causeDepth s
  else match i.routines[idx]? with
    | none => raiseAt x.p causeSegv 1 (BitVec.ofNat 64 idx) s
    | some r =>
      if !tilesAllowed i r q then raiseAt x.p causePerm 1 (BitVec.ofNat 64 idx) s
      else
        let s := s.onCore x.p fun c => { c with work := c.work.clearFlag n }
        match graftTaken s x.p idx r q with
        | some _ =>
          addEffect x.p (.graft ⟨idx, q, c.graftRegs r idx n q false, some (c.work.frames.length, n), c.work.pc, c.work.space, c.work.bno⟩)
            (s.onCore x.p fun c => { c with reserved := c.reserved + 1 })
        | none => s.onCore x.p fun c => { c with enter := some (idx, n) }

/-- An ungrafted call that the bundle recorded enters its body; the caller continues at `ret` (R27). -/
def finishCall (p : Nat) (ret : Word) (retSpace : Bool) (s : State) : State :=
  let c := s.core p
  match c.enter with
  | none => s
  | some (idx, n) =>
    match (s.imageOf c).routines[idx]? with
    | none => s
    | some m =>
      let c := c.landAll
      s.setCore p { c with work := c.work.enterBody m (c.work.frame idx n ret retSpace false), enter := none }

/-- The caller's registers that an inserted call gives back: s24 to s31, q0 to q7 and v40 to v47 (R178, R248). -/
def insertedCodes (k : Nat) : Bool := (decide (24 ≤ k) && decide (k ≤ 31)) || decide (52 ≤ k)

/-- A body returns: the clobber set zeroed, the frame restored, with the resume record of a level of the caller that drains (R120), the depth decreased, the flag set in the working copy (R28, R99). An inserted call sets no flag and restores what it displaced, and its caller's OPAR goes on (R248). -/
def Regs.leaveBody (r : Regs) : Regs :=
  match r.frames with
  | [] => r
  | f :: fs =>
    let z := r.zeroClobber
    let keep : Word := 0x000FFFFF00000000
    let keepAll : Word := 0x0FFFFFFFFF000000
    let pm := if f.inserted then keepAll else keep
    let r' : Regs :=
      { z with
        sc := mergeFile frameCodes z.sc f.sc
        poison := mergeMask pm z.poison f.poison
        atag := f.atag
        p := f.p
        g := mergeFile (fun k => decide (12 ≤ k)) z.g f.g
        loops := f.loops
        vrb := f.vrb
        prb := f.prb
        prof := f.prof
        body := f.body
        flags := f.flags
        brq := f.brq
        frames := fs
        pc := f.ret
        space := f.retSpace
        rrec := f.savedRrec }
    if f.inserted then
      { r' with
        sc := mergeFile insertedCodes r'.sc f.savedSc
        v := mergeFile (fun k => decide (40 ≤ k)) r'.v f.savedV
        vpoison := mergeMask 0xFF0000000000 r'.vpoison f.vpoison
        opar := f.savedOpar
        recov := f.savedRecov }
    else r'.setFlag f.flagN

end Sys2Proof.Machine
end

