-- ==== Sys2Proof/Machine/Engine.lean ====
section
/-! DEFINITION. Engine commands: issue, release with its checks, and the effect of each command when it completes or faults (R218 to R234). -/

namespace Sys2Proof.Machine

/-- A C-slot command as its bundle issues (R219): it captures its descriptor and B, clears its flag and reserves one request. -/
def cmdBody (kind : CmdKind) (useDesc useB : Bool) (x : Ctx) (s : State) : State :=
  let c := x.core s
  unlessPoisoned x (useB && c.srcPoison x.f.b) (fun s =>
    let n := bitsOf x.f.d.toNat 0 4
    let flag := if x.f.d.getLsbD 4 then some (c.work.frames.length, n) else none
    let cmd : Command := ⟨kind, if useDesc then c.work.readG x.f.a.toNat else 0, if useB then c.srcS x.f.b else 0, x.f.f, flag,
      x.slot, c.work.pc, c.work.space, c.work.bno⟩
    addEffect x.p (.command cmd) (s.onCore x.p fun c =>
      { c with
        reserved := c.reserved + 1
        work := if x.f.d.getLsbD 4 then c.work.clearFlag n else c.work })) s

def cpyBody (x : Ctx) (s : State) : State := cmdBody .cpy true false x s
def cpytBody (x : Ctx) (s : State) : State := cmdBody .cpyt true false x s
def rackBody (x : Ctx) (s : State) : State := cmdBody .rack true true x s
def migrBody (x : Ctx) (s : State) : State := cmdBody .migr true true x s
def redxBody (x : Ctx) (s : State) : State := cmdBody .redx true true x s
def sendBody (x : Ctx) (s : State) : State := cmdBody .send true true x s
def recvBody (x : Ctx) (s : State) : State := cmdBody .recv true true x s
def drainBody (x : Ctx) (s : State) : State := cmdBody .drain false false x s
def ckptBody (x : Ctx) (s : State) : State := cmdBody .ckpt true true x s
def prefBody (x : Ctx) (s : State) : State := cmdBody .pref true false x s

/-- The partition that holds a cluster (R327). -/
def partitionOf (s : State) (cluster : Nat) : Option Nat := s.parts.findIdx? fun q => q.clusters.contains cluster

/-- The partition that holds all the clusters of a queue's group (R327). -/
def queuePartition (s : State) (q : Nat) : Option Nat :=
  match Store.find? s.queues q with
  | none => none
  | some d => match Store.find? s.groups d.conf.group.toNat with
    | none => none
    | some g => match g.clusters with
      | [] => none
      | c :: l => if l.all fun d => decide (partitionOf s d = partitionOf s c) then partitionOf s c else none

/-- KICK (R231): a queue of another partition traps PERM at issue; the bit is set at release. -/
def kickBody (x : Ctx) (s : State) : State :=
  let c := x.core s
  unlessPoisoned x (c.srcPoison x.f.a) (fun s =>
    let q := (c.srcS x.f.a).toNat % 4096
    if (queuePartition s q).isSome && decide (queuePartition s q = partitionOf s (x.p / 8)) then addEffect x.p (.kick q) s
    else raiseAt x.p causePerm 1 (BitVec.ofNat 64 q) s) s

/-! ### Release -/

/-- The element size that a command reads from memory: RACK's conversions name their own (Table 9.9). -/
def Command.sourceSize (c : Command) : Nat :=
  match c.kind with
  | .rack => match (c.f &&& 3).toNat with
    | 0 => descEsize c.desc
    | 3 => 2
    | _ => 4
  | _ => descEsize c.desc

/-- Whether element `t` of a RACK is valid (R227). -/
def Command.valid (c : Command) (t : Nat) : Bool :=
  match c.kind with
  | .rack =>
    let n0 := descCount c.desc 0
    decide (t % n0 < bitsOf c.b.toNat 0 20) && decide (t / n0 % descCount c.desc 1 < bitsOf c.b.toNat 20 20)
  | _ => true

/-- The source elements that a command reads: element number and address. -/
def Command.sources (c : Command) : List (Nat × Nat) :=
  match c.kind with
  | .recv | .drain | .migr => []
  | _ => (sourceVAs c.desc).zipIdx.filterMap fun (va, t) => if c.valid t then some (t, va) else none

/-- The destination elements that a command writes. -/
def Command.dests (c : Command) : List (Nat × Nat) :=
  if c.kind.writes then (destVAs c.desc).zipIdx.map fun (va, t) => (t, va) else []

/-- The element format of a REDX (R229): format code, and width in bytes. -/
def redxWidth (f : BitVec 4) : Nat :=
  match (f >>> 2).toNat with
  | 0 => 4
  | 1 => 2
  | 2 => 4
  | _ => 8

/-- Whether a command moves elements of ESIZE bytes. -/
def CmdKind.hasElements : CmdKind → Bool
  | .cpy | .cpyt | .rack | .redx | .send | .recv | .ckpt => true
  | .migr | .drain | .pref => false

/-- The conditions of a command's own entry (R227, R230, R331); those on a reduction's contributions are looked at when all ranks have issued (R229). -/
def formOk (s : State) (p : Nat) (c : Command) : Bool :=
  let e := descEsize c.desc
  match c.kind with
  | .rack => match (c.f &&& 3).toNat with
    | 0 => true
    | 3 => decide (e = 4)
    | _ => decide (e = 2)
  | .redx => match Store.find? s.redGroups (c.b.toNat % 65536) with
    | some g => g.ranks.contains p
    | none => false
  | .send => match Store.find? s.channels (c.b.toNat % 4096) with
    | some ch => decide (ch.sender = p)
    | none => false
  | .recv => match Store.find? s.channels (c.b.toNat % 4096) with
    | some ch => decide (ch.receiver = p)
    | none => false
  | _ => true

/-- Whether a command is malformed: ESIZE, an element that crosses, a condition of its entry (R222). A CVA that fails R144 is the other reason. -/
def malformed (s : State) (p ctx : Nat) (sup : Bool) (c : Command) : Bool :=
  let e := descEsize c.desc
  (c.kind.hasElements &&
    (decide (e = 0) || decide (128 < e) || c.sources.any (fun (_, va) => elemCrosses s p ctx sup va c.sourceSize) ||
      c.dests.any fun (_, va) => elemCrosses s p ctx sup va e)) || !formOk s p c

/-- The first address fault found at release: element number and code. Where several elements have faults of different kinds the first in iteration order counts, and of one element its source (DESIGN CHOICE, log 93: R222 gives one code and no order). -/
def releaseFault (s : State) (p ctx : Nat) (sup : Bool) (c : Command) : Option (Nat × Nat) :=
  let src := c.sources.filterMap fun (t, va) => (elemFault s p ctx sup va c.sourceSize false).map fun k => (t, k)
  let dst := c.dests.filterMap fun (t, va) => (elemFault s p ctx sup va (descEsize c.desc) true).map fun k => (t, k)
  match src.head?, dst.head? with
  | some a, some b => some (if b.1 < a.1 then b else a)
  | some a, none => some a
  | none, b => b

/-- The row of element `t` of a CPYT (R226). -/
def Command.rowOf (c : Command) (t : Nat) : Nat := t / descCount c.desc 0

/-- The lowest row of a CPYT that holds a faulting element. -/
def faultRow (s : State) (p ctx : Nat) (sup : Bool) (c : Command) : Nat :=
  let src := c.sources.filterMap fun (t, va) => if (elemFault s p ctx sup va c.sourceSize false).isSome then some (c.rowOf t) else none
  let dst := c.dests.filterMap fun (t, va) => if (elemFault s p ctx sup va (descEsize c.desc) true).isSome then some (c.rowOf t) else none
  (src ++ dst).foldl Nat.min (2 ^ 120)

/-! ### Locations -/

/-- The locations of an element, byte by byte (R295); the pinned entry that holds its first byte gives all of them (R291). -/
def elemLocs (s : State) (p ctx : Nat) (sup : Bool) (va n : Nat) (write : Bool) : Except EngErr (List Nat) :=
  if decide (0x100000000 ≤ va) && (findSeg (opSegs s sup ctx) va).isSome then
    (engLoc s p ctx sup va write).bind fun a =>
      if backedPA s.cxlSize (a + (n - 1)) then .ok ((List.range n).map fun k => a + k)
      else .error (if sup then .code 2 else .paged (va / 4096 * 4096) false)
  else (List.range n).mapM fun k => engLoc s p ctx sup (va + k) write

/-- The locations of an element of an operation, in the windows of the core that released it (R124). -/
def EngineOp.locs (s : State) (o : EngineOp) (va n : Nat) (write : Bool) : Except EngErr (List Nat) :=
  elemLocs s o.origin.1 o.ctx o.sup va n write

/-- The locations of an element of an operation; a CXL tier device that has failed is fault code 8 (R222, R325). -/
def EngineOp.elem (s : State) (o : EngineOp) (va n : Nat) (write : Bool) : Except EngErr (List Nat) := do
  let l ← o.locs s va n write
  if l.any (deviceFailed s) then .error (.code 8) else .ok l

/-- The destination locations of an operation in iteration order, byte by byte. -/
def destLocs (s : State) (o : EngineOp) : Except EngErr (List Nat) := do
  let l ← o.cmd.dests.mapM fun (_, va) => o.elem s va (descEsize o.cmd.desc) true
  .ok l.flatten

/-! ### Flags and ends -/

/-- Flag `n` of the code at routine depth `d`: the running code's, or one that a frame holds (R28). -/
def Regs.setFlagAt (r : Regs) (d n : Nat) : Regs :=
  if d = r.frames.length then r.setFlag n
  else if r.frames.length < d then r
  else
    let k := r.frames.length - 1 - d
    { r with frames := r.frames.modify k fun f => { f with flags := f.flags ||| (1#16 <<< n) } }

/-- A completion of cycle `cyc` sets its flag in the committed copy, and in the others unless a younger operation of theirs is bound to it too (R99, R221). -/
def Core.setFlagAt (c : Core) (cyc d n : Nat) (inMark inWork : Bool) : Core :=
  let hit : BitVec 16 := if inWork && decide (d = c.work.frames.length) then 1#16 <<< n else 0
  let now := decide (c.flagAt = cyc)
  let new := hit &&& ~~~c.work.flags
  { c with
    work := if inWork then c.work.setFlagAt d n else c.work
    mark := if inMark then c.mark.setFlagAt d n else c.mark
    com := c.com.setFlagAt d n
    flagAt := cyc
    flagHit := if now then c.flagHit ||| hit else hit
    flagNew := if now then c.flagNew ||| new else new }

/-- A completion that arrives after its context was saved sets the flag in the save area (R224, Table 15.9, R263). -/
def setSavedFlag (s : State) (base d n : Nat) : State :=
  let off := if d = areaNat s base 0x00A 1 then 0x040 else 0x5000 + 0x400 * d + 0x138
  s.writeNat (base + off) 8 (areaNat s base off 8 ||| 2 ^ n)

/-- Whether a segment holds a command or a grafted call that is bound to a flag. -/
def Segment.binds (g : Segment) (fl : Nat × Nat) : Bool := g.effects.any fun e => match e with
  | .command q => decide (q.flag = some fl)
  | .graft q => decide (q.flag = some fl)
  | _ => false

/-- Whether a released operation or call of core `p` is bound to a flag: a graft's body that runs on the core in its place included (R36, R221). -/
def releasedBound (s : State) (p : Nat) (fl : Nat × Nat) : Bool :=
  let c := s.core p
  (s.ops.any fun (_, o) => decide (o.core = p) && o.savedAt.isNone && decide (o.cmd.flag = some fl)) ||
    (c.grafts.any fun (_, g) => decide (g.call.flag = some fl)) || (c.inserts.any fun i => decide (i.flag = some fl)) ||
    match c.comp with
    | some i => decide (i.flag = some fl)
    | none => false

/-- Whether a command or a call that has not completed is bound to flag `n` of the running code (R27, R221). -/
def flagBound (s : State) (p n : Nat) : Bool :=
  let c := s.core p
  let fl := (c.work.frames.length, n)
  releasedBound s p fl || c.seg.binds fl || match c.pending with
    | some g => g.binds fl
    | none => false

/-- An operation or call of core `p` that was bound to a flag has ended: the last one sets it (R221). -/
def flagEnd (p : Nat) (fl : Nat × Nat) (s : State) : State :=
  if releasedBound s p fl then s
  else s.onCore p fun c =>
    let inMark := match c.pending with
      | some g => !g.binds fl
      | none => true
    c.setFlagAt s.cyc.toNat fl.1 fl.2 inMark (inMark && !c.seg.binds fl)

/-- Whether an operation that reports to a save area, or a graft record there, is bound to a flag (R221, R224). -/
def savedBound (s : State) (base : Nat) (fl : Nat × Nat) : Bool :=
  (s.ops.any fun (_, o) => decide (o.savedAt = some base) && decide (o.cmd.flag = some fl)) ||
    match Store.find? s.extras base with
    | some e => ((readGrafts s base).zip e.bodies).any (fun (g, b) => decide (b.1 = some fl.1) && decide (g.flag = fl.2)) ||
        match e.comp with
        | some i => decide (i.flag = some fl)
        | none => false
    | none => false

/-- Stores to the own B-plane at the head of the press's queue that wait for nothing are performed (R210). -/
def flushHead (p : Nat) (s : State) : State :=
  let ready (o : Nat × TileOp) : Bool := match o.2 with
    | .store e => !s.storeWaits p e && !(s.core p).heldStores.any fun a => decide (a.bno < e.bno) && a.first p e
    | _ => false
  let q := (s.core p).opaq
  let s := (q.takeWhile ready).foldl (fun s o => applyOp s p o.2) s
  s.onCore p fun c => { c with opaq := q.dropWhile ready }

/-- The core's own banks that a mask names. -/
def maskBanks (p : Nat) (mask : BitVec 32) : List Nat :=
  (List.range 32).filterMap fun b => if mask.getLsbD b then some (bankOf (coreLoc p (0x4000 * b))) else none

/-- Bank releases that wait for nothing any more: BOWN clears the bits, and the banks are free for the next task (R165). -/
def flushBrels (c : Core) (p : Nat) : Core :=
  let ready (b : BitVec 32 × List Nat) : Bool :=
    b.2.isEmpty && !c.heldStores.any fun e => e.bytes.any fun (a, _) => (maskBanks p b.1).contains (bankOf a)
  { c with
    bown := c.brels.foldl (fun m b => if ready b then m &&& ~~~b.1 else m) c.bown
    brels := c.brels.filter fun b => !ready b
    lateBrels := c.lateBrels.filter fun b => !ready b }

/-- The published stores of core `p` that wait for nothing any more are performed, then the releases of banks that waited for them (R128, R165, R210). -/
def flushCore (p : Nat) (s : State) : State := (flushStores p (flushHead p s)).onCore p fun c => flushBrels c p

/-- A load that waits for operation `k` waits no longer for it. -/
def Pending.opEnded (k : Nat) (q : Pending) : Pending :=
  { q with load := q.load.map fun l => { l with after := l.after.filter fun j => decide (j ≠ k) } }

/-- A value operation that waits for operation `k` waits no longer for it. -/
def Effect.opEnded (k : Nat) (e : Effect) : Effect :=
  match e with
  | .value v => .value { v with after := v.after.filter fun j => decide (j ≠ k) }
  | e => e

/-- A segment whose accesses wait no longer for operation `k`. -/
def Segment.opEnded (k : Nat) (g : Segment) : Segment :=
  { g with
    stores := g.stores.map fun e => { e with after := e.after.filter fun j => decide (j ≠ k) }
    effects := g.effects.map (Effect.opEnded k) }

/-- A core whose MA = 1 accesses and bank releases wait no longer for operation `k` (R128, R165). -/
def Core.opEnded (k : Nat) (c : Core) : Core :=
  let drop (l : List Nat) : List Nat := l.filter fun j => decide (j ≠ k)
  let regs (r : Regs) : Regs := { r with pend := r.pend.map (Pending.opEnded k) }
  { c with
    work := regs c.work
    mark := regs c.mark
    com := regs c.com
    seg := c.seg.opEnded k
    pending := c.pending.map (Segment.opEnded k)
    heldStores := c.heldStores.map fun e => { e with after := drop e.after }
    opaq := c.opaq.map fun o => match o.2 with
      | .store e => (o.1, .store { e with after := drop e.after })
      | _ => o
    brels := c.brels.map fun b => (b.1, drop b.2)
    lateBrels := c.lateBrels.map fun b => (b.1, drop b.2) }

/-- Operation `k` of core `p` has ended: what waited for its writes goes on. -/
def opEnded (p k : Nat) (s : State) : State :=
  let s := s.onCore p fun c => c.opEnded k
  let s := { s with reqs := s.reqs.map fun (n, r) => (n, { r with after := r.after.filter fun j => decide (j ≠ k) }) }
  flushCore p s

/-- Agents at or above this number stand for another chip of the step domain (log 18). -/
def remote (p : Nat) : Bool := decide (1024 ≤ p)

/-- The group's next reduction: for each rank of this chip its first pending contribution; none while one is missing (R229). -/
def redxEntries (g : RedGroup) : Option (List (Nat × Nat)) :=
  (g.ranks.filter fun p => !remote p).mapM fun p => g.pending.find? fun q => decide (q.1 = p)

/-- The group when the reduction at its head, of the local contributions given, is over: the next one is at the head (R229, R331). -/
def RedGroup.next (g : RedGroup) (es : List (Nat × Nat)) : RedGroup :=
  { g with
    pending := g.pending.filter fun q => !es.contains q
    number := g.number + 1
    failed := false
    incoming := g.incoming.filter fun c => decide (g.number < c.m) }

/-- A reduction all of whose contributions have ended without one is over, and the group's next one stands at the head (R229). -/
def settleRedx (s : State) (h : Nat) : State :=
  match Store.find? s.redGroups h with
  | none => s
  | some g => match redxEntries g with
    | none => s
    | some es =>
      if es.all fun q => (Store.find? s.ops q.2).isNone then
        { s with redGroups := Store.put s.redGroups h (g.next es) }
      else s

/-- Operation `k` is over: what waited for its writes goes on, and reads them, also on the core that released it, where its context has moved since; its request is free (R128, R165, R219). -/
def dropOp (s : State) (k : Nat) (o : EngineOp) : State :=
  let written := match destLocs s o with
    | .ok l => l
    | .error _ => []
  let s := s.onCore o.core fun c => c.unkeep k (written.map fun a => (a, s.readByte a))
  let s := opEnded o.core k { s with ops := Store.erase s.ops k }
  let s := if o.origin.1 = o.core then s else opEnded o.origin.1 k s
  let s := s.onCore o.origin.1 fun c => { c with reserved := c.reserved - 1 }
  if o.cmd.kind = .redx then settleRedx s (o.cmd.b.toNat % 65536) else s

/-- An operation ends: its flag is set when it is the last one bound to it (R221). -/
def endOp (s : State) (k : Nat) : State :=
  match Store.find? s.ops k with
  | none => s
  | some o =>
    let s := dropOp s k o
    match o.cmd.flag, o.savedAt with
    | none, _ => s
    | some fl, none => flagEnd o.core fl s
    | some fl, some base => if savedBound s base fl then s else setSavedFlag s base fl.1 fl.2

/-- The trap that reports a fault without an object (Table 9.8); nothing for a killed context. -/
def faultCause (code : Nat) : Option Nat :=
  match code with
  | 2 | 5 => some causeSegv
  | 3 => some causePerm
  | 4 | 7 | 8 => some causeUncorrectable
  | _ => none

/-- The report of R223. -/
def faultReport (c : Command) (code cause : Nat) : TrapRec :=
  ⟨cause, 3, c.pc, c.space, BitVec.ofNat 64 (code ||| (c.slot <<< 7))⟩

/-- Whether a command's completion object is read (Table 9.7). -/
def CmdKind.usesCva : CmdKind → Bool
  | .drain | .pref => false
  | _ => true

/-- The object of an operation, where it names a good one (R144, R222). -/
def EngineOp.object (o : EngineOp) : Option Nat :=
  if o.cmd.kind.usesCva && decide (descCva o.cmd.desc ≠ 0) then cvaLoc o.origin.1 (descCva o.cmd.desc) else none

/-- A fault is written to the object, or reported to the issuing core or its saved context (R221 to R223). -/
def reportFault (s : State) (o : EngineOp) (code : Nat) (row : Option Nat) : State :=
  match o.object with
  | some loc => match row with
    | some r => faultRowAt s (some o.ctx) (engineAgent o.origin.1) loc code r
    | none => faultAt s (some o.ctx) (engineAgent o.origin.1) loc code
  | none => match faultCause code with
    | none => s
    | some cause =>
      let t := faultReport o.cmd code cause
      match o.savedAt with
      | none => addReport o.core t s
      | some base => match Store.find? s.extras base with
        | some e => { s with extras := Store.put s.extras base { e with reports := e.reports ++ [t] } }
        | none => s

/-- Operation `k` ends in a fault. -/
def faultOp (s : State) (k code : Nat) (row : Option Nat) : State :=
  match Store.find? s.ops k with
  | none => s
  | some o => endOp (reportFault s o code row) k

/-- Operation `k` completes: it arrives on its object and sets its flag (R221). -/
def finishOp (s : State) (k : Nat) : State :=
  match Store.find? s.ops k with
  | none => s
  | some o => endOp (match o.object with
      | some loc => arriveAt s (some o.ctx) (engineAgent o.origin.1) loc
      | none => s) k

/-! ### Effects on memory -/

/-- The bytes at locations; uncorrectable data is fault code 4 (R222). -/
def readLocs (s : State) (locs : List Nat) : Except EngErr (List Byte) :=
  if locs.any s.isPoisoned then .error (.code 4) else .ok (locs.map s.readByte)

/-- A RACK conversion (Table 9.9): round(dst, x, RNE) with no STAT bit. -/
def rackConvert (mode : Nat) (bs : List Byte) : List Byte :=
  match mode with
  | 1 => toBytes 2 (FloatFmt.bf16.round .rne (FloatFmt.f32.read (ofBytes bs))).1
  | 2 => toBytes 2 (FloatFmt.f16.round .rne (FloatFmt.f32.read (ofBytes bs))).1
  | 3 => toBytes 4 (FloatFmt.f32.round .rne (FloatFmt.bf16.read (ofBytes bs))).1
  | _ => bs

/-- What an element's copy does: its source locations, its destination locations and the bytes written. -/
structure ElemCopy where
  row : Nat
  src : List Nat
  dst : List Nat
  bytes : List Byte
  deriving DecidableEq, Repr

/-- One element of a copying command (R225 to R227). -/
def copyElem (s : State) (o : EngineOp) (t sva dva : Nat) : Except EngErr ElemCopy := do
  let n := descEsize o.cmd.desc
  if o.cmd.valid t then
    let src ← o.elem s sva o.cmd.sourceSize false
    let dst ← o.elem s dva n true
    let bs ← readLocs s src
    .ok ⟨o.cmd.rowOf t, src, dst, if o.cmd.kind = .rack then rackConvert (o.cmd.f &&& 3).toNat bs else bs⟩
  else do
    let dst ← o.elem s dva n true
    .ok ⟨o.cmd.rowOf t, [], dst, List.replicate n 0⟩

/-- The elements of a copying command that it may copy, in iteration order: a CPYT stops before the row that its release, or a declined translation fault, has found faulting (R148, R222). -/
def copyElems (s : State) (o : EngineOp) : List (Nat × Except EngErr ElemCopy) :=
  let within (t : Nat) : Bool := match o.limit with
    | some (r, _) => decide (o.cmd.kind ≠ .cpyt) || decide (o.cmd.rowOf t < r)
    | none => true
  ((sourceVAs o.cmd.desc).zip (destVAs o.cmd.desc)).zipIdx.filterMap fun (q, t) =>
    if within t then some (o.cmd.rowOf t, copyElem s o t q.1 q.2) else none

/-- The code with which an operation ends whose translation fault system software has declined, and of a copy the row; a CPYT has its limit for that (R148, R302). -/
def EngineOp.declined (o : EngineOp) : Option (Nat × Nat) := if o.cmd.kind = .cpyt then none else o.limit

/-- The first error of a list of elements. -/
def firstError : List (Nat × Except EngErr ElemCopy) → Option (Nat × EngErr)
  | [] => none
  | (r, .error e) :: _ => some (r, e)
  | (_, .ok _) :: l => firstError l

/-- The elements that met no error. -/
def okElems (l : List (Nat × Except EngErr ElemCopy)) : List ElemCopy :=
  l.filterMap fun (_, r) => match r with
    | .ok e => some e
    | .error _ => none

/-- The writes of elements in iteration order. -/
def elemWrites (l : List ElemCopy) : List (Nat × Byte) := l.flatMap fun e => e.dst.zip e.bytes

/-- Whether locations rise strictly. -/
def rising : List Nat → Bool
  | a :: b :: l => decide (a < b) && rising (b :: l)
  | _ => true

/-- Whether some byte is written twice, or is written and read, by a CPY (R225). -/
def overlapping (l : List ElemCopy) : Bool :=
  let dst := l.flatMap ElemCopy.dst
  let src := l.flatMap ElemCopy.src
  let lo := dst.foldl Nat.min (dst.headD 0)
  let hi := dst.foldl Nat.max 0
  !(rising dst && src.all fun a => decide (a < lo) || decide (hi < a))

/-- A candidate value of a byte written by an overlapping CPY: one of the elements that write it, its source byte as it was or as another element left it; the run's choices decide (R225, log 6). -/
def candidate (s : State) (pairs : List (Nat × Nat)) : Nat → Nat → Nat → Byte
  | 0, _, loc => s.readByte loc
  | fuel + 1, n, loc =>
    let ws := pairs.filter fun (_, d) => decide (d = loc)
    match ws[Config.freeChoice n % Nat.max 1 ws.length]? with
    | none => s.readByte loc
    | some (a, _) =>
      if pairs.any (fun (_, d) => decide (d = a)) && decide (Config.freeChoice (n + 1) % 2 = 1) then candidate s pairs fuel (n + 2) a
      else s.readByte a

/-- The writes of an overlapping CPY, a free candidate for each byte. -/
def freeWrites (s : State) (l : List ElemCopy) : List (Nat × Byte) × Nat :=
  let pairs := l.flatMap fun e => e.src.zip e.dst
  let locs := (pairs.map (·.2)).eraseDups
  let step := 2 * (pairs.length + 1)
  (locs.zipIdx.map fun (d, k) => (d, candidate s pairs (pairs.length + 1) (s.free + step * k) d), step * locs.length)

/-- Each byte of the writes takes place or not, as the run chooses (R222). -/
def someWrites (n : Nat) (ws : List (Nat × Byte)) : List (Nat × Byte) :=
  (ws.zipIdx.filter fun (_, k) => decide (Config.freeChoice (n + k) % 2 = 1)).map (·.1)

/-- The translations that an operation uses of a context's paged space stay in the buffers (R295); a lookup that matches entries of two sizes is counted in the MULTIHIT of its die (R299). -/
def cacheVAs (s : State) (o : EngineOp) (vas : List Nat) : State :=
  vas.foldl (fun s va =>
    if !o.sup && decide (0x100000000 ≤ va) && (findSeg (engineSegs s o.ctx) va).isNone && !lookupLost s o.ctx va then
      cacheLookup (if multiHit s o.ctx va then countDie s (dieOf o.origin.1) 0 else s) o.ctx va
    else s) s

/-- The effect of a copying command without errors (R225 to R227, R233). -/
def performCopy (s : State) (o : EngineOp) : State :=
  let l := okElems (copyElems s o)
  if decide (o.cmd.kind = .cpy ∨ o.cmd.kind = .ckpt) && overlapping l then
    let r := freeWrites s l
    { (s.writeBytes r.1) with free := s.free + r.2 }
  else s.writeBytes (elemWrites l)

/-- The partial effect of a copying command that faults during the operation (R222); a CPYT whose first faulting row is `row` has written exactly its lower rows (R148). -/
def performPartial (s : State) (o : EngineOp) (row : Nat) : State :=
  let l := okElems (copyElems s o)
  if o.cmd.kind = .cpyt then s.writeBytes (elemWrites (l.filter fun e => decide (e.row < row)))
  else
    let ws := elemWrites l
    { (s.writeBytes (someWrites s.free ws)) with free := s.free + ws.length }

/-! ### Reductions -/

/-- The combination of R229 on one element: f32 and bf16 in f32, integers wrapping, min and max by R56 or signed. -/
def redxStep (f : BitVec 4) (a b : Nat) : Nat :=
  let op := (f &&& 3).toNat
  let float (g : FloatFmt) : Nat := match op with
    | 1 => g.select false a b
    | 2 => g.select true a b
    | _ => (g.sum (g.read a) (g.read b)).1
  let int (w : Nat) : Nat := match op with
    | 1 => if toSigned w b < toSigned w a then b else a
    | 2 => if toSigned w a < toSigned w b then b else a
    | _ => (a + b) % 2 ^ w
  match (f >>> 2).toNat with
  | 0 => float .f32
  | 1 => float .f32
  | 2 => int 32
  | _ => int 64

/-- A contribution's element as it enters the accumulation: bf16 is held in f32 (R229). -/
def redxIn (f : BitVec 4) (x : Nat) : Nat :=
  if (f >>> 2).toNat = 1 then (FloatFmt.f32.round .rne (FloatFmt.bf16.read x)).1 else x

/-- The result's element. -/
def redxOut (f : BitVec 4) (x : Nat) : Nat :=
  if (f >>> 2).toNat = 1 then (FloatFmt.bf16.round .rne (FloatFmt.f32.read x)).1 else x

/-- The result over the contributions in rank order (R229). -/
def redxResult (f : BitVec 4) (xs : List Nat) : Nat :=
  match xs with
  | [] => 0
  | x :: l => redxOut f (l.foldl (fun acc y => redxStep f acc (redxIn f y)) (redxIn f x))

/-- The elements of an operation's source as numbers. -/
def sourceElems (s : State) (o : EngineOp) : Except EngErr (List Nat) :=
  o.cmd.sources.mapM fun (_, va) => do
    let locs ← o.elem s va o.cmd.sourceSize false
    let bs ← readLocs s locs
    .ok (ofBytes bs)

/-- The bytes of an operation's source in iteration order. -/
def sourceBytes (s : State) (o : EngineOp) : Except EngErr (List Byte) := do
  let l ← sourceElems s o
  .ok (l.flatMap fun x => toBytes o.cmd.sourceSize x)

/-! ### Pages -/

/-- The tier of a PA. -/
def tierOf (pa : Nat) : Nat := if 0x100000000000 ≤ pa then 1 else 0

/-- The leaves whose mappings intersect a range (R228): looked for page by page, a mapped page once. -/
def leavesFrom (s : State) (ctx hi : Nat) : Nat → Nat → List Leaf
  | 0, _ => []
  | fuel + 1, va =>
    if hi ≤ va then []
    else match walk s ctx va with
      | some l => l :: leavesFrom s ctx hi fuel (l.va + l.size)
      | none => leavesFrom s ctx hi fuel (va / 4096 * 4096 + 4096)

/-- The pages of a MIGR. -/
def migrLeaves (s : State) (ctx : Nat) (c : Command) : List Leaf :=
  let n := descCount c.desc 0
  leavesFrom s ctx (descSva c.desc + 4096 * n) (n + 1) (descSva c.desc)

/-- The pool of a tier's free frames of a size (R303): 3·tier, and 0, 1, 2 for 4 KiB, 2 MiB and 1 GiB. -/
def poolKey (tier size : Nat) : Nat := 3 * tier + (if size = 4096 then 0 else if size = 0x200000 then 1 else 2)

/-- A frame goes to the end of its pool. -/
def giveFrame (s : State) (pa size : Nat) : State :=
  let k := poolKey (tierOf pa) size
  { s with pools := Store.put s.pools k (Store.get [] s.pools k ++ [pa]) }

/-- A move's target frame goes back to its pool. -/
def returnTarget (s : State) (m : PageMove) : State :=
  match m.target with
  | some pa => giveFrame s pa m.size
  | none => s

/-- A page whose move cannot go on keeps its frame: MIG is cleared if its PTE still stands, and its target frame is free again. -/
def dropMove (s : State) (m : PageMove) : State :=
  let s := returnTarget s m
  if s.readNat m.pte 8 = m.word then s.writeNat m.pte 8 (m.word - 32) else s

/-- The pages that operation `k` has begun to move, of a device that has failed, stay where they are (R325). -/
def dropMoves (s : State) (k : Nat) : State :=
  let mine (m : PageMove) : Bool := decide (m.op = k) && !m.moved
  let t := (s.moves.filter mine).foldl dropMove s
  { t with moves := t.moves.filter fun m => !mine m }

/-- Whether a page of a MIGR's range is mapped by tables that hold uncorrectable data (R310). -/
def migrLost (s : State) (ctx : Nat) (c : Command) : Bool :=
  !s.poisoned.isEmpty && (List.range (descCount c.desc 0)).any fun k => lookupLost s ctx (descSva c.desc + 4096 * k)

/-- Whether a command goes to global VA, for which the engines read the context's entry (R13, R289). -/
def Command.global (c : Command) : Bool :=
  decide (c.kind = .migr) || (c.sources ++ c.dests).any fun q => decide (0x100000000 ≤ q.2)

/-- Whether a MIGR's range is refused: a pinned segment, a window, or no mapped page (R228). -/
def migrRefused (s : State) (ctx : Nat) (c : Command) : Bool :=
  let n := descCount c.desc 0
  let lo := descSva c.desc
  decide (0 < n) && (decide (lo < 0x100000000) ||
    (engineSegs s ctx).any (fun (_, b) => match pinSeg b with
      | some g => overlap g.vbase g.size lo (4096 * n)
      | none => false) ||
    ((migrLeaves s ctx c).isEmpty && !migrLost s ctx c))

/-! ### Release at commit -/

/-- Whether no activity in progress has a footprint that overlaps a tag (R233). -/
def gateOpen (s : State) (tag : BitVec 32) : Bool :=
  s.acts.all fun (id, a) => !(a.state.live || decide (a.state = .abandoning)) || decide (footprint s id &&& tag = 0)

/-- The stage in which a released operation stands. -/
def releaseStage (s : State) (c : Command) : OpStage :=
  match c.kind with
  | .send | .recv => .waiting
  | .ckpt => if gateOpen s (c.b.setWidth 32) then .running else .waiting
  | _ => .running

/-- An accepted operation enters its channel or its reduction group (R229, R230). -/
def enqueueOp (s : State) (k p : Nat) (c : Command) : State :=
  match c.kind with
  | .send => { s with channels := Store.update Channel.none s.channels (c.b.toNat % 4096) fun h => { h with sends := h.sends ++ [k] } }
  | .recv => { s with channels := Store.update Channel.none s.channels (c.b.toNat % 4096) fun h => { h with recvs := h.recvs ++ [k] } }
  | .redx => match Store.find? s.redGroups (c.b.toNat % 65536) with
    | some g =>
      if g.ranks.contains p then { s with redGroups := Store.put s.redGroups (c.b.toNat % 65536) { g with pending := g.pending ++ [(p, k)] } }
      else s
    | none => s
  | _ => s

/-- A context's 32-bit counter at an offset of its context-table entry, saturating (Table 17.2). -/
def bumpContext (ctx off : Nat) (s : State) : State :=
  let loc := ctxEntry s ctx + off
  let n := s.readNat loc 4
  if n = 0xFFFFFFFF then s else s.writeNat loc 4 (n + 1)

/-- A page of a MIGR of core `p` arrives now: past its deadline it counts in SLIP and in the die's slip counter (R228, R304). -/
def countSlip (p ctx deadline : Nat) (s : State) : State :=
  if decide (deadline ≠ 0) && decide (deadline < s.gstep.toNat) then countDie (bumpContext ctx 0x008 s) (dieOf p) 1 else s

/-- A command is released (R220, R222): a SEND or RECV that is refused takes no place among those of its channel, so it is not the k-th there (DESIGN CHOICE, log 95: R230 does not say). It is refused with 0x05 when malformed, faulted with what the check of its addresses finds, or with 0x04 where the context's entry is uncorrectable (R310), or begun. -/
def releaseCommand (p : Nat) (c : Command) (s : State) : State :=
  let ctx := (s.core p).ctx.toNat
  let sup := (s.core p).sup
  let lost := !sup && c.global && tableLost s ctx
  let s := if tableLost s ctx then s else cacheSegs s ctx
  let k := s.nextOp
  let o : EngineOp := ⟨c, p, ctx, releaseStage s c, s.cyc.toNat, [], none, none, none, none, 0, none, (p, (s.core p).com.bno), sup⟩
  let s := { s with ops := Store.put s.ops k o, nextOp := k + 1 }
  let row := if c.kind = .cpyt then some 0 else none
  let badCva := c.kind.usesCva && decide (descCva c.desc ≠ 0) && (cvaLoc p (descCva c.desc)).isNone
  if c.kind = .pref then s
  else if lost then faultOp (if c.kind = .redx then enqueueOp s k p c else s) k 4 row
  else if malformed s p ctx sup c || badCva || (decide (c.kind = .migr) && migrRefused s ctx c) then
    faultOp (if c.kind = .redx then enqueueOp s k p c else s) k 5 row
  else match releaseFault s p ctx sup c with
    | some (_, code) =>
      if c.kind = .cpyt then
        { s with ops := Store.put s.ops k { o with limit := some (faultRow s p ctx sup c, code) } }
      else faultOp (if c.kind = .redx then enqueueOp s k p c else s) k code none
    | none =>
      let s := enqueueOp s k p c
      if c.kind = .migr then
        let tier := bit (c.f.getLsbD 0)
        let here := (migrLeaves s ctx c).filterMap fun l => if tierOf l.pa = tier then some l.va else none
        here.foldl (fun s _ => countSlip p ctx c.b.toNat s) { s with ops := Store.put s.ops k { o with arrived := here } }
      else s

open Host (Outcome)

def execCpy (c : CPort) (f : Fields) (s : State) : Outcome State Fault Refusal := .next (slotExec (.cpy c f) f cpyBody s)
def execCpyt (c : CPort) (f : Fields) (s : State) : Outcome State Fault Refusal := .next (slotExec (.cpyt c f) f cpytBody s)
def execRack (c : CPort) (f : Fields) (s : State) : Outcome State Fault Refusal := .next (slotExec (.rack c f) f rackBody s)
def execMigr (c : CPort) (f : Fields) (s : State) : Outcome State Fault Refusal := .next (slotExec (.migr c f) f migrBody s)
def execRedx (c : CPort) (f : Fields) (s : State) : Outcome State Fault Refusal := .next (slotExec (.redx c f) f redxBody s)
def execSend (c : CPort) (f : Fields) (s : State) : Outcome State Fault Refusal := .next (slotExec (.send c f) f sendBody s)
def execRecv (c : CPort) (f : Fields) (s : State) : Outcome State Fault Refusal := .next (slotExec (.recv c f) f recvBody s)
def execKick (c : CPort) (f : Fields) (s : State) : Outcome State Fault Refusal := .next (slotExec (.kick c f) f kickBody s)
def execDrain (c : CPort) (f : Fields) (s : State) : Outcome State Fault Refusal := .next (slotExec (.drain c f) f drainBody s)
def execCkpt (c : CPort) (f : Fields) (s : State) : Outcome State Fault Refusal := .next (slotExec (.ckpt c f) f ckptBody s)
def execPref (c : CPort) (f : Fields) (s : State) : Outcome State Fault Refusal := .next (slotExec (.pref c f) f prefBody s)

end Sys2Proof.Machine
end

