-- ==== Sys2Proof/Machine/ScalarFp.lean ====
section
/-! DEFINITION. Scalar floating point and conversion (R172 to R174). -/

namespace Sys2Proof.Machine

/-- f32 (code 0) or f64 (code 1) (R172). -/
def scalarFmt (wide : Bool) : FloatFmt := if wide then .f64 else .f32

/-- The exact value of a scalar operand: an f32 operand is the low 32 bits (R172). -/
def fpRead (wide : Bool) (v : Word) : XReal := (scalarFmt wide).read (v.toNat % 2 ^ (scalarFmt wide).width)

/-- A result with the bits above the format zero (R172). -/
def fpResult (r : Nat × BitVec 6) : IntResult := (BitVec.ofNat 64 r.1, r.2)

/-- FADD: A + B, or A − B (R172). -/
def faddVal (f : BitVec 4) (a b : Word) : IntResult :=
  let w := f.getLsbD 0
  let y := fpRead w b
  fpResult ((scalarFmt w).sum (fpRead w a) (if f.getLsbD 1 then y.negate else y))

/-- FMUL (R172). -/
def fmulVal (f : BitVec 4) (a b : Word) : IntResult :=
  let w := f.getLsbD 0
  fpResult ((scalarFmt w).product (fpRead w a) (fpRead w b))

/-- FMA: s·A·B + t·D in one rounding (R172). -/
def fmaVal (f : BitVec 4) (d a b : Word) : IntResult :=
  let w := f.getLsbD 0
  let x := fpRead w a
  let z := fpRead w d
  fpResult ((scalarFmt w).fused (if f.getLsbD 2 then x.negate else x) (fpRead w b)
    (if f.getLsbD 1 then z.negate else z))

/-- The conditions of FCMP (R173). -/
def fcmpVal (f : BitVec 4) (a b : Word) : Bool :=
  let w := f.getLsbD 3
  let o := (fpRead w a).order (fpRead w b)
  match (f &&& 7).toNat with
  | 0 => decide (o = some .eq)
  | 1 => decide (o ≠ some .eq)
  | 2 => decide (o = some .lt)
  | 3 => decide (o = some .lt) || decide (o = some .eq)
  | 4 => decide (o = some .gt)
  | 5 => decide (o = some .gt) || decide (o = some .eq)
  | 6 => o.isNone
  | _ => o.isSome

/-- The formats of FCVT (R174). -/
def fcvtFmt (code : Nat) : ElemFmt :=
  match code with
  | 0 => .float .f64
  | 1 => .float .f32
  | 2 => .float .f16
  | 3 => .float .bf16
  | 4 => .float .f8e4
  | 5 => .float .f8e5
  | 6 => .int true 64
  | _ => .int true 32

/-- FCVT: round(dst, A, mode); an i32 result is sign-extended, a floating-point one zero-extended (R174). -/
def fcvtVal (dst src mode q : Nat) (a : Word) : IntResult :=
  let g := fcvtFmt src
  let h := fcvtFmt dst
  let r := h.round (modeOf mode q) (g.read (a.toNat % 2 ^ g.width))
  (BitVec.ofNat 64 (if dst = 7 then signExtend 32 64 r.1 else r.1), r.2)

/-- The counter of the conversion being issued: SR conversions of one bundle take counters in slot order (R55). -/
def Core.srBase (c : Core) : Word := c.work.sridx + BitVec.ofNat 64 (64 * c.srUsed)

def faddBody (x : Ctx) (s : State) : State := intBody 4 (faddVal x.f.f) x s
def fmulBody (x : Ctx) (s : State) : State := intBody 4 (fmulVal x.f.f) x s

/-- FMA reads D before the bundle (R172). -/
def fmaBody (x : Ctx) (s : State) : State :=
  let c := x.core s
  let poison := c.srcPoison x.f.a || c.srcPoison x.f.b || c.srcPoison x.f.d
  let r := fmaVal x.f.f (c.srcS x.f.d) (c.srcS x.f.a) (c.srcS x.f.b)
  putS x 4 x.f.d r.1 poison (if poison then 0 else r.2) s

/-- FCMP (R173): a poisoned source traps; no STAT bit. -/
def fcmpBody (x : Ctx) (s : State) : State :=
  let c := x.core s
  unlessPoisoned x (c.srcPoison x.f.a || c.srcPoison x.f.b)
    (putP x 4 x.f.d.toNat (allBits (fcmpVal x.f.f (c.srcS x.f.a) (c.srcS x.f.b))) allOnes64) s

/-- FCVT (R174): lane 0 of R54 in SR mode. -/
def fcvtBody (x : Ctx) (s : State) : State :=
  let c := x.core s
  let b := x.f.b.toNat
  let q := srWord c.work.seed c.srBase
  let r := fcvtVal (bitsOf b 3 3) (bitsOf b 0 3) (effMode (.fcvt x.f) x.f) q (c.srcS x.f.a)
  let poison := c.srcPoison x.f.a
  putS x 4 x.f.d r.1 poison (if poison then 0 else r.2) s

open Host (Outcome)

def execFadd (f : Fields) (s : State) : Outcome State Fault Refusal := .next (slotExec (.fadd f) f faddBody s)
def execFmul (f : Fields) (s : State) : Outcome State Fault Refusal := .next (slotExec (.fmul f) f fmulBody s)
def execFma (f : Fields) (s : State) : Outcome State Fault Refusal := .next (slotExec (.fma f) f fmaBody s)
def execFcvt (f : Fields) (s : State) : Outcome State Fault Refusal := .next (slotExec (.fcvt f) f fcvtBody s)
def execFcmp (f : Fields) (s : State) : Outcome State Fault Refusal := .next (slotExec (.fcmp f) f fcmpBody s)

end Sys2Proof.Machine
end

