-- ==== Sys2Proof/Machine/VectorFp.lean ====
section
/-! DEFINITION. Vector floating point, conversions, estimates, reductions and block-scaled packing (R57, R58, R188 to R192, R194, R201, R202). -/

namespace Sys2Proof.Machine

/-- The STAT bits of the elements that lie in active lanes (R50, R95). -/
def activeStat (w : Nat) (g : Word) (l : List (Nat × BitVec 6)) : BitVec 6 :=
  ((List.range l.length).zip l).foldl (fun acc (e, r) => if g.getLsbD (laneOf w e) then acc ||| r.2 else acc) 0

/-- Element results with their STAT bits written in the active lanes. -/
def putElems (x : Ctx) (lat w : Nat) (l : List (Nat × BitVec 6)) (poison : Bool) (s : State) : State :=
  let g := laneGuard x s
  putV x lat x.f.d (fromElems w (l.map (·.1))) g poison (if poison then 0 else activeStat w g l) s

/-- The floating-point format of a V-slot word. -/
def vecFloat (f : BitVec 4) : FloatFmt :=
  match elemFmt f.toNat with
  | .float g => g
  | .int _ _ => .f32

/-- A lane-gated floating-point form (R188). -/
def vecFpBody (readsB readsD : Bool) (g : FloatFmt → Nat → Nat → Nat → Nat × BitVec 6) (x : Ctx) (s : State) : State :=
  let c := x.core s
  let f := vecFloat x.f.f
  let w := f.width
  let poison := c.vPoison x.f.a || (readsB && c.vPoison x.f.b) || (readsD && c.vPoison x.f.d)
  let d := if readsD then c.srcV x.f.d else 0
  putElems x 4 w
    (List.zipWith (fun (p : Nat × Nat) z => g f p.1 p.2 z) ((elems w (c.srcV x.f.a)).zip (elems w (c.srcV x.f.b))) (elems w d))
    poison s

/-- The element results of R188. -/
def vfaddElem (f : FloatFmt) (a b _d : Nat) : Nat × BitVec 6 := f.sum (f.read a) (f.read b)
def vfsubElem (f : FloatFmt) (a b _d : Nat) : Nat × BitVec 6 := f.sum (f.read a) (f.read b).negate
def vfmulElem (f : FloatFmt) (a b _d : Nat) : Nat × BitVec 6 := f.product (f.read a) (f.read b)
def vfmaElem (f : FloatFmt) (a b d : Nat) : Nat × BitVec 6 := f.fused (f.read a) (f.read b) (f.read d)
def vfminElem (f : FloatFmt) (a b _d : Nat) : Nat × BitVec 6 := (f.select false a b, 0)
def vfmaxElem (f : FloatFmt) (a b _d : Nat) : Nat × BitVec 6 := (f.select true a b, 0)

/-- Sign injection: the sign of `a` xor the sign of `b`, the rest of `a` (R190). -/
def vfsgnElem (f : FloatFmt) (a b _d : Nat) : Nat × BitVec 6 :=
  let w := f.width
  (bitsOf a 0 (w - 1) ||| ((bitsOf a (w - 1) 1 ^^^ bitsOf b (w - 1) 1) <<< (w - 1)), 0)

def vfaddBody (x : Ctx) (s : State) : State := vecFpBody true false vfaddElem x s
def vfsubBody (x : Ctx) (s : State) : State := vecFpBody true false vfsubElem x s
def vfmulBody (x : Ctx) (s : State) : State := vecFpBody true false vfmulElem x s
def vfmaBody (x : Ctx) (s : State) : State := vecFpBody true true vfmaElem x s
def vfminBody (x : Ctx) (s : State) : State := vecFpBody true false vfminElem x s
def vfmaxBody (x : Ctx) (s : State) : State := vecFpBody true false vfmaxElem x s
def vfsgnBody (x : Ctx) (s : State) : State := vecFpBody true false vfsgnElem x s

/-- The conditions of VFCMP (R189). -/
def vfcmpElem (cond : Nat) (f : FloatFmt) (a b : Nat) : Bool :=
  let o := (f.read a).order (f.read b)
  match cond with
  | 1 => decide (o = some .lt)
  | 2 => decide (o = some .lt) || decide (o = some .eq)
  | 3 => o.isNone
  | _ => decide (o = some .eq)

/-- VFCMP (R189): a poisoned source traps. -/
def vfcmpBody (x : Ctx) (s : State) : State :=
  let c := x.core s
  let f := vecFloat x.f.f
  unlessPoisoned x (decide (laneGuard x s ≠ 0) && (c.vPoison x.f.a || c.vPoison x.f.b))
    (putP x 4 (bitsOf x.f.d.toNat 0 4)
      (laneTest f.width (vfcmpElem (bitsOf x.f.d.toNat 4 2) f) (c.srcV x.f.a) (c.srcV x.f.b)) (laneGuard x s)) s

/-- The random word of lane `l` (R54). -/
def Core.srLane (c : Core) (l : Nat) : Nat := srWord c.work.seed (c.srBase + BitVec.ofNat 64 l)

/-- The STAT bits of the lanes that are active. -/
def laneStat (g : Word) (l : List (Nat × BitVec 6)) : BitVec 6 := activeStat 32 g l

/-- VFCVT (R191): direction 0 converts f32 lanes into 64 elements of D, leaving the others; direction 1 converts 64 elements into f32 lanes. -/
def vfcvtBody (x : Ctx) (s : State) : State :=
  let c := x.core s
  let g := laneGuard x s
  let k := elemFmt x.f.f.toNat
  let w := k.width
  let part := bitsOf x.f.b.toNat 1 2
  let mode := effMode (.vfcvt .v0 x.f) x.f
  if x.f.b.getLsbD 0 then
    let src := elems w (c.srcV x.f.a)
    let r := (List.range 64).map fun l =>
      FloatFmt.f32.round (modeOf mode (c.srLane l)) (k.read (src.getD (64 * part + l) 0))
    let poison := c.vPoison x.f.a
    putV x 4 x.f.d (fromElems 32 (r.map (·.1))) g poison (if poison then 0 else laneStat g r) s
  else
    let src := elems 32 (c.srcV x.f.a)
    let old := elems w (c.srcV x.f.d)
    let r := (List.range 64).map fun l => k.round (modeOf mode (c.srLane l)) (FloatFmt.f32.read (src.getD l 0))
    let poison := c.vPoison x.f.a || c.vPoison x.f.d
    let new := ((List.range old.length).zip old).map fun (e, v) =>
      if decide (64 * part ≤ e) && decide (e < 64 * part + 64) && g.getLsbD (e - 64 * part)
      then (r.getD (e - 64 * part) (0, 0)).1 else v
    putV x 4 x.f.d (fromElems w new) allOnes64 poison (if poison then 0 else laneStat g r) s

/-- The greatest t ≤ `hi` with t² · 2^j · (129 + 2m) ≤ 2^25, searched downwards (R192). -/
def rsqrtT (j m : Nat) : Nat → Nat
  | 0 => 0
  | t + 1 => if (t + 1) * (t + 1) * 2 ^ j * (129 + 2 * m) ≤ 2 ^ 25 then t + 1 else rsqrtT j m t

/-- VFRCE (R192, Table 8.3). -/
def vfrceElem (f : FloatFmt) (a _b _d : Nat) : Nat × BitVec 6 :=
  match f.read a with
  | .nan => (f.canon, 0)
  | .inf n => f.round .rne (.fin n 0 0)
  | .fin n m e =>
    if m = 0 then (f.infBits n, statDZ)
    else
      let lg := Nat.log2 m
      let i := (m * 128 / 2 ^ lg) - 128
      f.round .rne (.fin n (2 ^ 17 / (257 + 2 * i)) (-9 - (e + lg)))

/-- VFRSE (R192, Table 8.3). -/
def vfrseElem (f : FloatFmt) (a _b _d : Nat) : Nat × BitVec 6 :=
  match f.read a with
  | .nan => (f.canon, 0)
  | .inf n => if n then (f.canon, statIV) else f.round .rne (.fin false 0 0)
  | .fin n m e =>
    if m = 0 then (f.infBits n, statDZ)
    else if n then (f.canon, statIV)
    else
      let lg := Nat.log2 m
      let ex : Int := e + lg
      let k := ex / 2
      let j := (ex % 2).toNat
      let mm := (m * 64 / 2 ^ lg) - 64
      f.round .rne (.fin false (rsqrtT j mm 512) (-9 - k))

def vfrceBody (x : Ctx) (s : State) : State := vecFpBody false false vfrceElem x s
def vfrseBody (x : Ctx) (s : State) : State := vecFpBody false false vfrseElem x s

/-- The combining operation of a reduction: an absent child yields the other unchanged (R57). -/
def combine (op : Nat → Nat → Nat × BitVec 6) (a b : Option (Nat × BitVec 6)) : Option (Nat × BitVec 6) :=
  match a, b with
  | none, b => b
  | a, none => a
  | some x, some y =>
    let r := op x.1 y.1
    some (r.1, x.2 ||| y.2 ||| r.2)

/-- One level of the tree: elements 2i and 2i + 1 are combined (R57). -/
def treeLevel (op : Nat → Nat → Nat × BitVec 6) : List (Option (Nat × BitVec 6)) → List (Option (Nat × BitVec 6))
  | a :: b :: l => combine op a b :: treeLevel op l
  | l => l

/-- The levels of the tree over 2^n elements, the elements themselves first (R57). -/
def treeLevels (op : Nat → Nat → Nat × BitVec 6) : Nat → List (Option (Nat × BitVec 6)) → List (List (Option (Nat × BitVec 6)))
  | 0, l => [l]
  | n + 1, l => l :: treeLevels op n (treeLevel op l)

/-- The prefix over elements 0 to k from the aligned nodes, left to right (R58). -/
def scanAt (op : Nat → Nat → Nat × BitVec 6) (levels : List (List (Option (Nat × BitVec 6)))) (k : Nat) :
    Nat → Nat → Option (Nat × BitVec 6) → Option (Nat × BitVec 6)
  | 0, _, acc => acc
  | b + 1, base, acc =>
    if (k + 1).testBit b then
      let blk := (levels.getD b []).getD (base / 2 ^ b) none
      scanAt op levels k b (base + 2 ^ b) (combine op acc blk)
    else scanAt op levels k b base acc

/-- The combining operation of VRED and VSCAN by format and op code (R194). -/
def redOp (k : ElemFmt) (op a b : Nat) : Nat × BitVec 6 :=
  match k with
  | .int sg w =>
    match op with
    | 1 => (vminElem sg w a b 0, 0)
    | 2 => (vmaxElem sg w a b 0, 0)
    | _ => ((a + b) % 2 ^ w, 0)
  | .float f =>
    match op with
    | 1 => (f.select false a b, 0)
    | 2 => (f.select true a b, 0)
    | _ => f.sum (f.read a) (f.read b)

/-- The identity of an absent root (R57). -/
def redIdentity (k : ElemFmt) (op : Nat) : Nat :=
  match k with
  | .int sg w =>
    match op with
    | 1 => wrapInt w (intRange sg w).2
    | 2 => wrapInt w (intRange sg w).1
    | _ => 0
  | .float f =>
    match op with
    | 1 => f.infBits false
    | 2 => f.infBits true
    | _ => 0

/-- The present elements of a reduction's source (R194). -/
def redLeaves (w : Nat) (g : Word) (v : Vec) : List (Option (Nat × BitVec 6)) :=
  let l := elems w v
  ((List.range l.length).zip l).map fun (e, a) => if g.getLsbD (laneOf w e) then some (a, 0) else none

/-- The latency of a reduction: vector integer or vector FP (Table 8.1). -/
def redLatency (k : ElemFmt) : Nat :=
  match k with
  | .int _ _ => 2
  | .float _ => 4

/-- VRED (R57, R194): element 0 is the root, every other element is zero whatever pG holds. -/
def vredBody (x : Ctx) (s : State) : State :=
  let c := x.core s
  let k := elemFmt x.f.f.toNat
  let op := x.f.b.toNat
  let n := Nat.log2 (2048 / k.width)
  let levels := treeLevels (redOp k op) n (redLeaves k.width (laneGuard x s) (c.srcV x.f.a))
  let r := (((levels.getD n []).getD 0 none)).getD (redIdentity k op, 0)
  let poison := c.vPoison x.f.a
  putV x (redLatency k) x.f.d (BitVec.ofNat 2048 r.1) allOnes64 poison (if poison then 0 else r.2) s

/-- VSCAN (R58, R194): every element is written, and the roundings of every element's prefix raise their STAT bits, those of lanes whose guard bit is clear too (DESIGN CHOICE, log 91). -/
def vscanBody (x : Ctx) (s : State) : State :=
  let c := x.core s
  let k := elemFmt x.f.f.toNat
  let op := x.f.b.toNat
  let n := Nat.log2 (2048 / k.width)
  let levels := treeLevels (redOp k op) n (redLeaves k.width (laneGuard x s) (c.srcV x.f.a))
  let r := (List.range (2048 / k.width)).map fun e =>
    (scanAt (redOp k op) levels e (n + 1) 0 none).getD (redIdentity k op, 0)
  let poison := c.vPoison x.f.a
  putV x (redLatency k) x.f.d (fromElems k.width (r.map (·.1))) allOnes64 poison
    (if poison then 0 else r.foldl (fun acc q => acc ||| q.2) 0) s

/-- Scale `j` of a block-scale register (R60). -/
def scaleAt (e : Scales) (j : Nat) : Nat := (e.extractLsb' (8 * j) 8).toNat

/-- VPACK (R201): 64 converted lanes are shifted into the top of D. -/
def vpackBody (x : Ctx) (s : State) : State :=
  let c := x.core s
  let g := laneGuard x s
  let k := elemFmt x.f.f.toNat
  let m := 64 * k.width
  let e := c.work.readE (bitsOf x.f.b.toNat 0 3)
  let mode := effMode (.vpack .v0 x.f) x.f
  let src := elems 32 (c.srcV x.f.a)
  let r := (List.range 64).map fun l =>
    if g.getLsbD l then k.roundScaled (modeOf mode (c.srLane l)) (scaleAt e l) (FloatFmt.f32.read (src.getD l 0)) else (0, 0)
  let poison := c.vPoison x.f.a || c.vPoison x.f.d
  let y := BitVec.ofNat 2048 (packElems k.width (r.map (·.1)))
  putV x 4 x.f.d ((c.srcV x.f.d >>> m) ||| (y <<< (2048 - m))) allOnes64 poison
    (if poison then 0 else r.foldl (fun acc q => acc ||| q.2) 0) s

/-- VUNPK (R202). -/
def vunpkBody (x : Ctx) (s : State) : State :=
  let c := x.core s
  let g := laneGuard x s
  let k := elemFmt x.f.f.toNat
  let part := bitsOf x.f.b.toNat 3 3
  let e := c.work.readE (bitsOf x.f.b.toNat 0 3)
  let src := elems k.width (c.srcV x.f.a)
  let r := (List.range 64).map fun l =>
    (ElemFmt.float .f32).roundScaled .rne (scaleAt e l) (k.read (src.getD (64 * part + l) 0))
  let poison := c.vPoison x.f.a
  putV x 4 x.f.d (fromElems 32 (r.map (·.1))) g poison (if poison then 0 else laneStat g r) s

open Host (Outcome)

def execVfadd (u : VUnit) (f : Fields) (s : State) : Outcome State Fault Refusal := .next (slotExec (.vfadd u f) f vfaddBody s)
def execVfsub (u : VUnit) (f : Fields) (s : State) : Outcome State Fault Refusal := .next (slotExec (.vfsub u f) f vfsubBody s)
def execVfmul (u : VUnit) (f : Fields) (s : State) : Outcome State Fault Refusal := .next (slotExec (.vfmul u f) f vfmulBody s)
def execVfma (u : VUnit) (f : Fields) (s : State) : Outcome State Fault Refusal := .next (slotExec (.vfma u f) f vfmaBody s)
def execVfmin (u : VUnit) (f : Fields) (s : State) : Outcome State Fault Refusal := .next (slotExec (.vfmin u f) f vfminBody s)
def execVfmax (u : VUnit) (f : Fields) (s : State) : Outcome State Fault Refusal := .next (slotExec (.vfmax u f) f vfmaxBody s)
def execVfcmp (u : VUnit) (f : Fields) (s : State) : Outcome State Fault Refusal := .next (slotExec (.vfcmp u f) f vfcmpBody s)
def execVfsgn (u : VUnit) (f : Fields) (s : State) : Outcome State Fault Refusal := .next (slotExec (.vfsgn u f) f vfsgnBody s)
def execVfcvt (u : VUnit) (f : Fields) (s : State) : Outcome State Fault Refusal := .next (slotExec (.vfcvt u f) f vfcvtBody s)
def execVfrce (u : VUnit) (f : Fields) (s : State) : Outcome State Fault Refusal := .next (slotExec (.vfrce u f) f vfrceBody s)
def execVfrse (u : VUnit) (f : Fields) (s : State) : Outcome State Fault Refusal := .next (slotExec (.vfrse u f) f vfrseBody s)
def execVred (u : VUnit) (f : Fields) (s : State) : Outcome State Fault Refusal := .next (slotExec (.vred u f) f vredBody s)
def execVscan (u : VUnit) (f : Fields) (s : State) : Outcome State Fault Refusal := .next (slotExec (.vscan u f) f vscanBody s)
def execVpack (u : VUnit) (f : Fields) (s : State) : Outcome State Fault Refusal := .next (slotExec (.vpack u f) f vpackBody s)
def execVunpk (u : VUnit) (f : Fields) (s : State) : Outcome State Fault Refusal := .next (slotExec (.vunpk u f) f vunpkBody s)

end Sys2Proof.Machine
end

