-- ==== Sys2Proof/Machine/VectorPerm.lean ====
section
/-! DEFINITION. Vector permutes (R193, Table 8.4). -/

namespace Sys2Proof.Machine

/-- A permute: element k of D is `g n a b d k`, where n is the number of elements; no STAT bit is raised (R193). -/
def permBody (readsB readsD : Bool) (g : Nat → List Nat → List Nat → List Nat → Nat → Nat) (x : Ctx) (s : State) : State :=
  let c := x.core s
  let w := fmtWidth x.f.f.toNat
  let n := 2048 / w
  let poison := c.vPoison x.f.a || (readsB && c.vPoison x.f.b) || (readsD && c.vPoison x.f.d)
  let b := if readsB then elems w (c.srcV x.f.b) else []
  let d := if readsD then elems w (c.srcV x.f.d) else []
  let r := (List.range n).map (g n (elems w (c.srcV x.f.a)) b d)
  putV x 2 x.f.d (fromElems w r) (laneGuard x s) poison 0 s

/-- The rows of Table 8.4. -/
def vshufElem (n : Nat) (a b _d : List Nat) (k : Nat) : Nat := a.getD (b.getD k 0 % n) 0
def vbcastElem (j : Nat) (_n : Nat) (a _b _d : List Nat) (_k : Nat) : Nat := a.getD j 0
def vslideElem (j : Nat) (n : Nat) (a _b d : List Nat) (k : Nat) : Nat :=
  if k + j < n then a.getD (k + j) 0 else d.getD (k + j - n) 0
def vzipElem (_n : Nat) (a b _d : List Nat) (k : Nat) : Nat := if k % 2 = 0 then a.getD (k / 2) 0 else b.getD ((k - 1) / 2) 0

def vshufBody (x : Ctx) (s : State) : State := permBody true false vshufElem x s
def vbcastBody (x : Ctx) (s : State) : State := permBody false false (vbcastElem x.f.b.toNat) x s
def vslideBody (x : Ctx) (s : State) : State := permBody false true (vslideElem x.f.b.toNat) x s
def vzipBody (x : Ctx) (s : State) : State := permBody true false vzipElem x s

open Host (Outcome)

def execVshuf (u : VUnit) (f : Fields) (s : State) : Outcome State Fault Refusal := .next (slotExec (.vshuf u f) f vshufBody s)
def execVbcast (u : VUnit) (f : Fields) (s : State) : Outcome State Fault Refusal := .next (slotExec (.vbcast u f) f vbcastBody s)
def execVslide (u : VUnit) (f : Fields) (s : State) : Outcome State Fault Refusal := .next (slotExec (.vslide u f) f vslideBody s)
def execVzip (u : VUnit) (f : Fields) (s : State) : Outcome State Fault Refusal := .next (slotExec (.vzip u f) f vzipBody s)

end Sys2Proof.Machine
end

