-- ==== Sys2Proof/Machine/Issue.lean ====
section
/-! DEFINITION. The issue of a bundle: its marks and waits, the checks of R79 and R80, the holds of R122, hazard detection and breakpoints, the slots, and what follows them: flags, the loop unit, branches (R66 to R82, R93 to R103, R107, R112 to R122, R162 to R164, R180, R269, R270). -/

namespace Sys2Proof.Machine

/-- What a slot-word row does once its guard and fallbacks are dealt with: the same functions that the rows' own meanings run. -/
def bodyOf : Instr → Ctx → State → State
  | .add _ => addBody
  | .sub _ => subBody
  | .and _ => andBody
  | .or _ => orBody
  | .xor _ => xorBody
  | .andn _ => andnBody
  | .shl _ => shlBody
  | .shr _ => shrBody
  | .mul _ => mulBody
  | .div _ => divBody
  | .min _ => minBody
  | .max _ => maxBody
  | .bitc _ => bitcBody
  | .cmp _ => cmpBody
  | .sel _ => selBody
  | .mov _ => movBody
  | .li _ => liBody
  | .aadd _ => aaddBody
  | .ld _ => ldBody
  | .st _ => stBody
  | .ldt _ => ldtBody
  | .ldx _ => ldxBody
  | .chk _ => chkBody
  | .br _ => brBody
  | .brl _ => brlBody
  | .jmp _ => jmpBody
  | .ret _ => retBody
  | .loop _ => loopBody
  | .yield _ => yieldBody
  | .waitb _ => waitbBody
  | .barr _ => barrBody
  | .amo _ => amoBody
  | .brel _ => brelBody
  | .trap _ => trapBody
  | .crd _ => crdBody
  | .cwr _ => cwrBody
  | .gset _ => gsetBody
  | .fadd _ => faddBody
  | .fmul _ => fmulBody
  | .fma _ => fmaBody
  | .fcvt _ => fcvtBody
  | .fcmp _ => fcmpBody
  | .actb _ => actbBody
  | .actp _ => actpBody
  | .acte _ => acteBody
  | .acta _ => actaBody
  | .acts _ => actsBody
  | .sret _ => sretBody
  | .halt _ => haltBody
  | .vadd _ _ => vaddBody
  | .vsub _ _ => vsubBody
  | .vmul _ _ => vmulBody
  | .vmad _ _ => vmadBody
  | .vand _ _ => vandBody
  | .vor _ _ => vorBody
  | .vxor _ _ => vxorBody
  | .vshl _ _ => vshlBody
  | .vshr _ _ => vshrBody
  | .vmin _ _ => vminBody
  | .vmax _ _ => vmaxBody
  | .vabs _ _ => vabsBody
  | .vcmp _ _ => vcmpBody
  | .vsel _ _ => vselBody
  | .vfadd _ _ => vfaddBody
  | .vfsub _ _ => vfsubBody
  | .vfmul _ _ => vfmulBody
  | .vfma _ _ => vfmaBody
  | .vfmin _ _ => vfminBody
  | .vfmax _ _ => vfmaxBody
  | .vfcmp _ _ => vfcmpBody
  | .vfsgn _ _ => vfsgnBody
  | .vfcvt _ _ => vfcvtBody
  | .vfrce _ _ => vfrceBody
  | .vfrse _ _ => vfrseBody
  | .vshuf _ _ => vshufBody
  | .vbcast _ _ => vbcastBody
  | .vslide _ _ => vslideBody
  | .vzip _ _ => vzipBody
  | .vred _ _ => vredBody
  | .vscan _ _ => vscanBody
  | .vld _ _ => vldBody
  | .vst _ _ => vstBody
  | .vldt _ _ => vldtBody
  | .vldx _ _ => vldxBody
  | .vgath _ _ => vgathBody
  | .vscat _ _ => vscatBody
  | .vlde _ _ => vldeBody
  | .vpack _ _ => vpackBody
  | .vunpk _ _ => vunpkBody
  | .plog _ _ => plogBody
  | .pmov _ _ => pmovBody
  | .vpcnt _ _ => vpcntBody
  | .vamo _ _ => vamoBody
  | .opa _ => opaBody
  | .opar _ => oparBody
  | .zclr _ => zclrBody
  | .zmov _ => zmovBody
  | .zld _ => zldBody
  | .zflush _ => zflushBody
  | .rcall _ => rcallBody
  | .txq _ => txqBody
  | .cpy _ _ => cpyBody
  | .cpyt _ _ => cpytBody
  | .rack _ _ => rackBody
  | .migr _ _ => migrBody
  | .redx _ _ => redxBody
  | .send _ _ => sendBody
  | .recv _ _ => recvBody
  | .kick _ _ => kickBody
  | .drain _ _ => drainBody
  | .ckpt _ _ => ckptBody
  | .pref _ _ => prefBody
  | .cmpt _ => cmptBody
  | .xalu _ => xaluBody
  | _ => fun _ s => s

/-- A slot word runs in the bundle being issued. -/
def slotRun (i : Instr) (s : State) : State :=
  match slotFields i with
  | some f => runSlot i f (bodyOf i) s
  | none => s

/-! ### Fetch and the checks of the encoding -/

/-- The bundle at an address as the core fetches it (R22, R66, R256): the routine store, the binary's .text, or at supervisor level memory that the supervisor's segment table maps. -/
def fetchAt (s : State) (c : Core) (pc : Word) (space : Bool) : Option Bundle :=
  let i := s.imageOf c
  let text : Option Bundle := if pc.toNat / 32 < i.textLen then some (Store.get 0 i.text (pc.toNat / 32)) else none
  if space then Store.find? i.store (pc.toNat / 32)
  else if c.sup then
    match findSeg s.supSegs pc.toNat with
    | some g =>
      if g.r && decide (pc.toNat + 32 ≤ g.vbase + g.size) then
        some (BitVec.ofNat 256 (s.readNat (g.pbase + (pc.toNat - g.vbase)) 32))
      else none
    | none => text
  else text

/-- Whether a core at supervisor level would fetch uncorrectable data from memory (R256, R310). -/
def fetchLost (s : State) (c : Core) (pc : Word) (space : Bool) : Bool :=
  c.sup && !space && match findSeg s.supSegs pc.toNat with
    | some g => rowsLost s (g.pbase + (pc.toNat - g.vbase)) 32
    | none => false

/-- The lowest slot word that fails step 1 of R79. -/
def illegalSlot (b : Bundle) : Option Nat :=
  (slotWords b).findSome? fun (k, w) => match decodeSlot k w with
    | .ok i => if operandsOk i then none else some k
    | .error _ => some k

/-- What a recovery bundle may not hold (R162). -/
def forbiddenInRecovery : Instr → Bool
  | .br _ | .brl _ | .jmp _ | .ret _ | .brel _ | .loop _ | .chk _ | .yield _ => true
  | _ => false

/-- Whether two slot words conflict (R80): a common target, or a CWR of SRIDX beside an SR conversion. -/
def conflicts (i j : Instr) : Bool :=
  let t := targets j
  (targets i).any (fun a => t.contains a) ||
    ((targets i).contains (.control 3) && match slotFields j with
      | some f => isSR j f
      | none => false)

/-- The first pair of slots that conflict. -/
def conflictPair : List (Nat × Instr) → Option (Nat × Nat)
  | [] => none
  | (k, i) :: l => match l.find? fun (_, j) => conflicts i j with
    | some (m, _) => some (k, m)
    | none => conflictPair l

/-- The checks of R79 on a bundle: cause and TINFO of the first that fails. `recovery` adds what R162 forbids; a recovery bundle with RZ = 1 has no slot word at fault, and its TINFO is 0 (DESIGN CHOICE, log 85: R79 and R162 give none). -/
def issueCheck (sup recovery : Bool) (b : Bundle) : Option (Nat × Word) :=
  let is := bundleInstrs b
  let bad : Option Nat := if recovery then (is.find? fun (_, i) => forbiddenInRecovery i).map (·.1) else none
  match illegalSlot b, bad with
  | some k, none => some (causeIllegal, slotInfo k 0)
  | none, some k => some (causeIllegal, slotInfo k 0)
  | some k, some j => some (causeIllegal, slotInfo (Nat.min k j) 0)
  | none, none =>
    if recovery && (headerOf b).rz then some (causeIllegal, 0)
    else match is.find? fun (_, i) => privileged i && !sup with
      | some (k, _) => some (causePriv, slotInfo k 0)
      | none => (conflictPair is).map fun (k, m) => (causeConflict, BitVec.ofNat 64 (k ||| (m <<< 3)))

/-! ### Guards and holds -/

/-- Whether a slot word acts: its guard's bit 0, or any lane where the guard gates lanes (R70, R181, R269). -/
def Core.acts (c : Core) (k : Nat) (i : Instr) : Bool :=
  match slotFields i with
  | none => false
  | some f => if decide (k = 2) || decide (k = 3) || laneGated i (cleanFields i f) then decide (c.work.readP f.g.toNat ≠ 0) else c.work.guard f.g

/-- The word of the M slot, when it is no NOP. -/
def pressWord (b : Bundle) : Option Instr :=
  match decodeSlot 4 (bundleWord b 4) with
  | .ok (.nop _) => none
  | .ok i => some i
  | .error _ => none

/-- The tile that a ZMOV or ZFLUSH with a true guard reads (R112). -/
def Core.readsTile (c : Core) (b : Bundle) : Option Nat :=
  match pressWord b with
  | some (.zmov f) => if c.work.guard f.g then some (bitsOf f.a.toNat 0 3) else none
  | some (.zflush f) => if c.work.guard f.g then some (bitsOf f.d.toNat 0 3) else none
  | _ => none

/-- Whether entries write a tile. -/
def writesTile (l : List TileOp) (t : Nat) : Bool := l.any fun o => o.tiles.contains t

/-- The tile operations of a segment. -/
def Segment.tileOps (g : Segment) : List TileOp := g.opas.map (·.2)

/-- Whether the segment holds what the next bundle waits for: a value-returning operation, an SRET or a HALT (R113, R179, R262). -/
def Segment.waitsAfter (g : Segment) : Bool := g.effects.any fun e => match e with
  | .value _ | .sret _ _ | .halt => true
  | _ => false

/-- A level with stages is active (R120). -/
def Core.staged (c : Core) : Bool := c.work.loops.any fun l => l.active && decide (1 ≤ l.stages)

/-- A soft pre-emption is requested. -/
def Core.softAsked (c : Core) : Bool := match c.preempt with
  | .soft _ _ => true
  | _ => false

/-- The resume record's level has exited. -/
def Core.drained (c : Core) : Bool := match c.work.rrec with
  | some r => !(c.work.loops.getD r.level Loop.idle).active
  | none => false

/-- A caller of the running body has a level that drains for a pre-emption: the context is saved when that level exits (R120). -/
def Core.callerDrains (c : Core) : Bool := c.work.frames.any (·.savedRrec.isSome)

/-- A soft pre-emption acts at the core's marks: not while a level with stages drains, the caller's included (R119, R120, R266). -/
def Core.softDue (c : Core) : Bool := c.softAsked && (!c.staged || c.drained) && !c.callerDrains

/-- The graft of an inserted call, where it runs grafted (R178, R248). -/
def insertGraft (s : State) (p : Nat) (i : Inserted) : Option GraftEntry :=
  match (s.imageOf (s.core p)).routines[i.routine]? with
  | some m => if i.seq.isSome && !i.body then graftTaken s p i.routine m i.q else none
  | none => none

/-- The inserted call that may be taken at a mark: the oldest one that need not wait for a free frame, as one that runs ungrafted does (R248). -/
def nextInsert (s : State) (p : Nat) : Option Inserted :=
  let c := s.core p
  c.inserts.find? fun i => decide (c.work.frames.length < 4) || (insertGraft s p i).isSome

/-- An inserted call may be taken at a mark (R248). -/
def insertWaits (s : State) (p : Nat) : Bool := (s.core p).comp.isNone && (nextInsert s p).isSome

/-- A graft that has come back at a body mark is not grafted any more: the rest of its body runs before its core's code goes on (R265). -/
def graftRefused (s : State) (p : Nat) : Bool :=
  (s.core p).grafts.any fun (_, g) => g.resumed && !g.started && match (s.imageOf (s.core p)).routines[g.call.routine]? with
    | some m => (graftTaken s p g.call.routine m g.call.q).isNone
    | none => false

/-- Something waits at task level for the core to stand at a mark (R119, R248, R259, R265). -/
def wantsStop (s : State) (p : Nat) : Bool :=
  let c := s.core p
  !c.sup && (!c.async.isEmpty || c.softDue || insertWaits s p || graftRefused s p)

/-- A mark cannot be placed: a segment is pending, or has committed in this very cycle (R115). -/
def Core.markBlocked (c : Core) (cyc : Nat) : Bool := c.pending.isSome || decide (c.comAt = cyc + 1)

/-- BSKIP holds for the bundle due: it is the first one since the resumption, also when a rollback brings the core back to it (R269, log 77). -/
def Core.skipsBreak (c : Core) : Bool := c.bskip && decide (c.work.bno = c.com.bno)

/-- The core stands at a mark: nothing has issued in the open segment. -/
def Core.atMark (c : Core) : Bool :=
  decide (c.work.bno = c.mark.bno) && c.seg.opas.isEmpty && c.seg.stores.isEmpty && c.seg.effects.isEmpty && !c.merged

/-- Every flag that WAIT names is set, none of them in this very cycle (R68, R99). -/
def Core.flagsReady (c : Core) (cyc : Nat) (wait : BitVec 16) : Bool :=
  decide (wait &&& ~~~c.work.flags = 0) && !(decide (c.flagAt = cyc) && decide (wait &&& c.flagNew ≠ 0))

/-- The data of a load is not there in cycle `cyc` (R41, R98). -/
def Pending.unready (cyc : Nat) (q : Pending) : Bool := match q.load with
  | some l => !l.arrived || decide (cyc < l.readyAt)
  | none => false

/-- A load names the bundle that is due to issue, and its data has not arrived in cycle `cyc`: the core domain stands still (R98). A load from the own barrel is late so when it is a timed one whose distance is less than its latency, or when it waits at its bank. What an LP-T1 load from the own barrel holds is the interlock hold, which R212 names apart from a freeze and which runs at the same time as any other cause of a hold, the press's among them (DEDUCED, log 102: R251 settles it so; R98 names landing under interlock among what freezes). -/
def Core.frozen (c : Core) (cyc : Nat) : Bool :=
  c.work.pend.any fun q => decide (q.vis ≤ c.work.bno) && match q.load with
    | some l => !l.arrived || (l.timed && decide (cyc < l.readyAt))
    | none => false

/-- The bundle due waits for the data of a load that names it: the freeze of R98, or the interlock hold of R41 (R251). -/
def Core.dataHeld (c : Core) (cyc : Nat) : Bool := c.work.pend.any fun q => decide (q.vis ≤ c.work.bno) && q.unready cyc

/-- Some load of the running code has no data yet: an ungrafted call and a body's return wait for it (R27, R28). -/
def Core.loadsOut (c : Core) (cyc : Nat) : Bool := c.work.pend.any (Pending.unready cyc)

/-- q0 to q7 as an RCALL finds them: those from before its bundle, whatever has landed in its hold (R27). -/
def Core.callQueue (c : Core) : List Word := c.callQ.getD c.work.queue

/-- Landing-buffer entries owed once the bundle due has issued (R97). -/
def Core.owedEntries (c : Core) : Nat :=
  c.work.pend.countP fun q => decide (c.work.bno < q.vis) && match q.load with
    | some l => l.timed
    | none => false

/-- Grafted calls issued and not completed. -/
def graftsOut (c : Core) : Nat :=
  let held (g : Segment) : Nat := g.effects.countP fun e => match e with
    | .graft _ => true
    | _ => false
  c.grafts.length + ((c.inserts ++ c.comp.toList).countP fun i => i.flag.isSome) + held c.seg + (match c.pending with
    | some g => held g
    | none => 0)

/-- The native unit of a call's entry. -/
def callUnit (s : State) (c : Core) (idx : Nat) : Option NativeUnit :=
  match (s.imageOf c).routines[idx]? with
  | some r => r.entry.map (·.unit)
  | none => none

/-- A native unit runs a call of the core. -/
def unitBusy (s : State) (c : Core) (u : NativeUnit) : Bool :=
  c.grafts.any fun (_, g) => g.started && decide (callUnit s c g.call.routine = some u)

/-- Cycles until the last pending write is visible to a bundle that is held: as many as its latency names, counted from its issue (R27, R251). -/
def Core.ahead (c : Core) (cyc : Nat) : Nat :=
  c.work.pend.foldl (fun n q => Nat.max n (if c.work.bno < q.vis then q.since + (q.vis - q.bno) - cyc else 0)) 0

/-- A hold that counts cycles: what is pending lands as it ends, in its own order (R27, R28). -/
def Core.hasten (c : Core) : Core :=
  { c with work := { c.work with pend := (sortPend c.work.pend).zipIdx.map fun (q, k) =>
      { q with vis := Nat.min q.vis c.work.bno, bno := c.work.bno, id := k } } }

/-- `hasten` in the hold of an RCALL, which decides on q0 to q7 as they were before its bundle (R27). -/
def Core.hastenCall (c : Core) (q : List Word) : Core := { c.hasten with callQ := some (c.callQ.getD q) }

/-- How long an RCALL is held: 0 to go on. `true` for the hold of an ungrafted call on what is pending, which lands when it ends; a load without its data is waited for first (R27). -/
def rcallHold (s : State) (p : Nat) (f : Fields) : Nat × Bool :=
  let c := s.core p
  let f := cleanFields (.rcall f) f
  let idx := rcallIndex f
  let i := s.imageOf c
  if !c.work.guard f.g || decide (c.work.frames.length = 4) then (0, false)
  else match i.routines[idx]? with
    | none => (0, false)
    | some r =>
      if !tilesAllowed i r c.callQueue then (0, false)
      else if flagBound s p f.d.toNat then (1, false)
      else match graftTaken s p idx r c.callQueue with
        | some e => (if decide (4 ≤ graftsOut c) || unitBusy s c e.unit then 1 else 0, false)
        | none =>
          let ahead := c.ahead s.cyc.toNat
          if c.loadsOut s.cyc.toNat then (1, false)
          else if 0 < ahead then (ahead, true) else (if c.work.opar.isSome then 1 else 0, false)

/-- Requests that the bundle's true-guarded commands and grafted RCALL reserve (R219). -/
def newRequests (s : State) (p : Nat) (b : Bundle) : Nat :=
  let c := s.core p
  (bundleInstrs b).countP fun (k, i) =>
    c.acts k i && match i with
      | .kick _ _ => false
      | .rcall f =>
        let idx := rcallIndex (cleanFields (.rcall f) f)
        match (s.imageOf c).routines[idx]? with
        | some r => (graftTaken s p idx r c.callQueue).isSome
        | none => false
      | _ => decide (k = 5 ∨ k = 6) && decide (opcode i ≠ 0)

/-! ### Breakpoints -/

/-- The address, space and mask of a comparator match the bundle (R269). CTL.SPACE says which space; where it is the routine store, bit 0 of ADDR, which names the space too, is passed over (DESIGN CHOICE, log 104). -/
def addressMatch (s : State) (c : Core) (k : Comparator) (pc : Word) (space : Bool) (b : Bundle) : Bool :=
  let ctl := k.ctl.toNat
  let mask := bitsOf ctl 1 7
  let place := match bitsOf ctl 8 2 with
    | 0 => !space && decide (k.addr = pc)
    | 1 => space && decide (k.addr &&& ~~~1 = pc)
    | 2 => space && match (s.imageOf c).routines[bitsOf ctl 12 8]? with
      | some r => decide (r.offset ≤ pc.toNat / 32) && decide (pc.toNat / 32 < r.offset + r.len)
      | none => false
    | _ => false
  place && (decide (mask = 0) || (bundleInstrs b).any fun (j, i) =>
    mask.testBit (j - 1) && decide (opcode i ≠ 0) && c.acts j i)

/-- The qualifier of a comparator; HITS counts this match already (R269). -/
def qualifier (c : Core) (k : Comparator) : Bool :=
  let ctl := k.ctl.toNat
  match bitsOf ctl 10 2 with
  | 0 => true
  | 1 => decide (c.work.readS (48 + bitsOf ctl 20 2) = k.value)
  | 2 => decide (k.hits + 1 = k.value)
  | _ => match c.work.frames with
    | f :: _ => decide (f.routine = bitsOf ctl 12 8)
    | [] => false

/-- The comparators after the bundle has been compared, with the number of the first that stops it (R269; of several the lowest number is named: DESIGN CHOICE, log 104): HITS counts matches, under qualifier 2 those of the address. -/
def compare (s : State) (c : Core) (pc : Word) (space : Bool) (b : Bundle) : List Comparator × Option Nat :=
  let hit (k : Comparator) : Bool := c.armed k && addressMatch s c k pc space b
  let cs := c.work.comps.map fun k =>
    if hit k && (qualifier c k || decide (bitsOf k.ctl.toNat 10 2 = 2)) then { k with hits := k.hits + 1 } else k
  (cs, c.work.comps.findIdx? fun k => hit k && qualifier c k)

/-! ### Hazards -/

/-- The register that a source field reads. -/
def roleReads (w : Regs) (r : Role) (v : BitVec 6) : List Dest :=
  let n := v.toNat
  match r with
  | .sSrc | .sSrcNoLit | .addr | .rowReg => if decide (1 ≤ n) && decide (n ≤ 59) then [.scalar n] else []
  | .addrNum => [.scalar (32 + n % 16)]
  | .vSrc | .vSrcNoLit | .pressSrc => if n ≤ 47 then [.vector (w.physV n)] else if n ≤ 55 then [.scale (n - 48)] else []
  | _ => []

/-- A predicate as a register read; p0 is none. -/
def predRead (w : Regs) (n : Nat) : List Dest := if n % 16 = 0 then [] else [.pred (w.physP (n % 16))]

/-- Registers that a row reads beyond its operand codes. -/
def extraReads (w : Regs) (i : Instr) (f : Fields) : List Dest :=
  let d := f.d.toNat
  let dv := roleReads w .vSrc f.d
  match i with
  | .sel _ => predRead w f.f.toNat
  | .fma _ => roleReads w .sSrc f.d
  | .vfcvt _ _ => if f.b.getLsbD 0 then [] else dv
  | .vmad _ _ | .vfma _ _ | .vslide _ _ | .vamo _ _ => dv ++ match i with
    | .vamo _ _ => [.scalar (32 + f.a.toNat % 16)]
    | _ => []
  | .amo _ => .scalar (32 + f.a.toNat % 16) :: (if f.f &&& 7 = 7 then roleReads w .sSrc f.d else [])
  | .actp _ => (List.range 6).map fun k => .scalar (52 + k)
  | .rcall _ => (List.range 8).map fun k => .scalar (52 + k)
  | .ret _ => [.scalar 47]
  | .gset _ => [.desc (d % 16)]
  | .plog _ _ => predRead w f.a.toNat ++ predRead w f.b.toNat
  | .pmov _ _ => if [1, 3, 4].contains f.f.toNat then predRead w f.a.toNat else []
  | .cmpt _ => if f.f = 2 then predRead w f.a.toNat ++ predRead w f.b.toNat else []
  | .vpack _ _ => .scale (bitsOf f.b.toNat 0 3) :: dv
  | .vunpk _ _ => [.scale (bitsOf f.b.toNat 0 3)]
  | .zmov _ => [.scale (bitsOf f.a.toNat 3 3)]
  | .zflush _ => if f.f.getLsbD 0 then [.scale (f.a.toNat % 8)] else []
  | .cpy _ _ | .cpyt _ _ | .rack _ _ | .migr _ _ | .redx _ _ | .send _ _ | .recv _ _ | .ckpt _ _ | .pref _ _ =>
    [.desc (f.a.toNat % 16)]
  | _ => []

/-- The registers that a slot word reads; one whose guard is false reads its guard alone. -/
def slotReads (c : Core) (k : Nat) (i : Instr) : List Dest :=
  match rowSpec i, slotFields i with
  | some r, some f0 =>
    let f := cleanFields i f0
    let w := c.work
    predRead w f.g.toNat ++ (if c.acts k i then
      roleReads w r.d f.d ++ roleReads w r.a f.a ++ roleReads w r.b f.b ++ extraReads w i f
    else [])
  | _, _ => []

/-- The accesses of older bundles in uncommitted segments: stores in the cask and loads in flight, class and locations (R121). -/
def olderAccesses (c : Core) : List (BitVec 2 × List Nat) :=
  let open_ (n : Nat) : Bool := decide (c.com.bno ≤ n) && decide (n < c.work.bno)
  (c.cask.filter fun e => open_ e.bno).map (fun e => (e.cls, e.bytes.map (·.1))) ++
    c.work.pend.filterMap fun q => match q.load with
      | some l => if open_ q.bno then some (l.cls, l.bytes.map (·.1)) else none
      | none => none

/-- The locations that one slot's effects touch. -/
def Effect.locs : Effect → List Nat
  | .value v => match v.op with
    | .amo _ _ loc w _ _ _ => (List.range w).map fun k => loc + k
    | .vamo _ _ _ l => l.flatMap fun (_, loc, _) => (List.range 4).map fun k => loc + k
    | _ => []
  | _ => []

/-- The accesses that slot `k` has made in this bundle. -/
def slotAccesses (c c' : Core) (k : Nat) (i : Instr) : List (BitVec 2 × List Nat) :=
  let new := c'.seg.effects.drop c.seg.effects.length
  let tag : BitVec 2 := match slotFields i with
    | some f => c.work.tagA (f.a.toNat % 16)
    | none => 0
  ((c'.seg.stores.filter fun e => decide (e.bno = c.work.bno) && decide (e.slot = k)).map fun e => (e.cls, e.bytes.map (·.1))) ++
    (c'.work.pend.filterMap fun q => match q.load with
      | some l => if decide (q.bno = c.work.bno) && decide (q.slot = k) then some (l.cls, l.bytes.map (·.1)) else none
      | none => none) ++
    ((c'.dropped.drop c.dropped.length).map fun q => q.2) ++ (new.map fun e => (tag, e.locs))

/-- A VGATH or VSCAT of size `n` with more than 2 active lanes in one bank, one whose result is discarded included: its locations are those of its accesses, lane by lane (R121). -/
def bankConflict (i : Instr) (accs : List (BitVec 2 × List Nat)) : Bool :=
  match i with
  | .vgath _ f | .vscat _ f =>
    let n := indexedSize f.f
    accs.any fun (_, l) => decide (extraPasses ((l.zipIdx.filter fun e => decide (e.2 % n = 0)).map (·.1)) ≠ 0)
  | _ => false

/-- Whether a slot word is a hazard (R121): before it runs the core is `c0`; it turns core `c` into `c'`. -/
def slotHazard (c0 c c' : Core) (k : Nat) (i : Instr) : Bool :=
  let older := olderAccesses c0
  (slotReads c0 k i).any (fun d => c0.work.pend.any fun q => decide (q.bno < c0.work.bno) && decide (q.dest = d)) ||
    (slotAccesses c c' k i).any (fun (cl, ls) => older.any fun (cl', ls') => decide (cl ≠ cl') && ls.any fun a => ls'.contains a) ||
    bankConflict i (slotAccesses c c' k i)

/-! ### The slots -/

/-- The slots run in order (R77, R93), each on what the last one left pending. The number of the first slot that is a hazard is found on the way. -/
def runSlots (p : Nat) (b : Bundle) (s : State) : State × Option Nat :=
  let h := headerOf b
  let s0 := { s with cur := p }.onCore p fun c => { c with lx := h.lx, lit := bundleWord b 7, dropped := [] }
  let s1 := pushWarn ⟨p, 0, ⟨0, 0, 0, 0, 0⟩⟩ (warnIf h.reserved warnHDR) s0
  (bundleInstrs b).foldl (fun (acc : State × Option Nat) (k, i) =>
    let t := slotRun i acc.1
    let hz := (s0.core p).hzd && !(s0.core p).sup && acc.2.isNone && slotHazard (s0.core p) (acc.1.core p) (t.core p) k i
    (t, if hz then some k else acc.2)) (s1, none)

/-- The lane guard of a VAMO in slot `k` of a bundle. -/
def vamoGuard (p : Nat) (b : Bundle) (k : Nat) (s : State) : Option Word :=
  (bundleInstrs b).findSome? fun (j, i) => match i with
    | .vamo _ f => if j = k then some (laneGuard ⟨p, k, f⟩ s) else none
    | _ => none

/-- Two VAMOs of one bundle are copies that compare their guards, also where one of them has no active lane (R206): then the CMPT fails. -/
def pairGuards (p : Nat) (b : Bundle) (s : State) : State :=
  match vamoGuard p b 2 s, vamoGuard p b 3 s with
  | some g, some h =>
    if decide (g = 0) = decide (h = 0) then s
    else addCheck p ⟨.atomicPair, s.cyc.toNat + 1, (s.core p).work.pc, (s.core p).work.space, true, (activeLanes (g ||| h)).map fun l => 4 * l⟩ s
  | _, _ => s

/-- The slots with the detector of R121, and the comparison of two VAMOs of which one has no active lane. -/
def runBundle (p : Nat) (b : Bundle) (s : State) : State :=
  let r := runSlots p b s
  match r.2 with
  | some k => raiseAt p causeHazard 0 (slotInfo k 0) (s.onCore p fun c => { c with sync := none })
  | none => pairGuards p b r.1

/-! ### After the slots -/

/-- Pending writes that pass a test and are due land (R93). -/
def Core.landWhere (c : Core) (test : Dest → Bool) (upto : Nat) : Core :=
  let keep := c.work.pend.filter fun q => !(test q.dest)
  let c' := ({ c with work := { c.work with pend := c.work.pend.filter fun q => test q.dest } }).land upto
  { c' with work := { c'.work with pend := sortPend (keep ++ c'.work.pend) } }

/-- What no pending record of a save area holds, and so lands as its bundle ends: descriptors, control registers, sticky bits (R263). -/
def landsEarly : Dest → Bool
  | .desc _ | .control _ | .nothing => true
  | _ => false

/-- What a pass end reads: the loop counters (R164). -/
def isCounter : Dest → Bool
  | .scalar k => decide (48 ≤ k) && decide (k ≤ 51)
  | _ => false

/-- The rotation of R101. -/
def Regs.rotate (r : Regs) : Regs :=
  { r with vrb := BitVec.ofNat 5 ((r.vrb.toNat + 23) % 24), prb := BitVec.ofNat 3 ((r.prb.toNat + 7) % 8) }

/-- A loop counter set. -/
def Regs.setCounter (r : Regs) (n v : Nat) : Regs := r.landScalar (48 + n) (BitVec.ofNat 64 v) false none

/-- Logical p8 takes the value of a pass's first stage, and then p9 to p15 of a level that starts anew (R100): last of what lands at the next bundle. -/
def Core.setStage (c : Core) (k : Nat) (v : Bool) : Core :=
  c.addPend ⟨c.work.nextId, c.work.bno, c.work.bno, 0, .pred (c.work.physP k), (allBits v).setWidth 2048, allOnes64, false, none,
    0, 0, none, 0⟩

/-- A level is restored as though LOOP had issued with N = R (R120); issue continues at the address given. -/
def Core.reloadLevel (c : Core) (r : ResumeRec) : Core × Word :=
  let c := (List.range 7).foldl (fun c k => c.setStage (9 + k) false) c
  if r.r = 0 then ({ c with work := { c.work with rrec := none } }, r.stop + 32)
  else
    let lv : Loop := ⟨r.start, r.stop, r.stages, r.stages - 1, true⟩
    let w := { c.work with rrec := none, loops := c.work.loops.set r.level lv }.setCounter r.level r.r
    (({ c with work := w }).setStage 8 true, r.start)

/-- The innermost active level whose body ends at `e`, among those not yet processed (R102). -/
def endingLevel (loops : List Loop) (done : List Nat) (e : Word) : Option Nat :=
  (List.range 4).foldl (fun acc n =>
    let l := loops.getD n Loop.idle
    if l.active && decide (l.stop = e) && !done.contains n then
      match acc with
      | none => some n
      | some m =>
        let k := loops.getD m Loop.idle
        if k.start.toNat < l.start.toNat then some n else acc
    else acc) none

/-- What a level's pass end decides: the next bundle, nothing, or that no other level takes its pass end here, since the level has drained for a pre-emption and goes on at its resumption (R102, R120). -/
inductive PassEnd where
  | back (a : Word)
  | exits
  | drains
  deriving DecidableEq, Repr

/-- One level's pass end (R100, R120). -/
def Core.passEnd (c : Core) (n : Nat) : Core × PassEnd :=
  let l := c.work.loops.getD n Loop.idle
  let lc := (c.work.readS (48 + n)).toNat
  let lc1 := lc - 1
  let esc := if 0 < lc then l.esc else l.esc - 1
  let w := if 1 ≤ l.stages then c.work.rotate else c.work
  let record := c.softAsked && decide (1 ≤ l.stages) && w.rrec.isNone && !c.callerDrains
  let w := if record then { w with rrec := some ⟨n, l.stages, lc1, l.start, l.stop⟩ } else w
  let left := if record then 0 else lc1
  let w := if 0 < lc then w.setCounter n left else w
  if decide (0 < left) || decide (0 < esc) then
    let c := { c with work := { w with loops := w.loops.set n { l with esc := esc } } }
    (if 1 ≤ l.stages then c.setStage 8 (decide (0 < left)) else c, .back l.start)
  else
    let c := { c with work := { w with loops := w.loops.set n { l with esc := esc, active := false } } }
    match w.rrec with
    | some r =>
      if r.level ≠ n then (c, .exits)
      else if c.softAsked then ({ c with markAfter := true }, .drains)
      else
        let q := c.reloadLevel r
        (q.1, if r.r = 0 then .exits else .back q.2)
    | none => (c, .exits)

/-- The pass ends at one boundary, the innermost first (R102). -/
def passEnds (e : Word) : Nat → List Nat → Core → Core × Option Word
  | 0, _, c => (c, none)
  | fuel + 1, done, c =>
    match endingLevel c.work.loops done e with
    | none => (c, none)
    | some n =>
      let q := c.passEnd n
      match q.2 with
      | .back a => (q.1, some a)
      | .drains => (q.1, none)
      | .exits => passEnds e fuel (n :: done) q.1

/-- A taken branch out of a body makes its level inactive; lcn keeps its value (R102). -/
def Core.leaveBodies (c : Core) (t : Word) : Core :=
  (List.range 4).foldl (fun c n =>
    let l := c.work.loops.getD n Loop.idle
    if l.active && !(decide (l.start.toNat ≤ t.toNat) && decide (t.toNat ≤ l.stop.toNat)) then
      let w := { c.work with loops := c.work.loops.set n { l with active := false } }
      { c with work := { w with rrec := w.rrec.filter fun r => decide (r.level ≠ n) } }
    else c) c

/-- The next bundle of the core after the one at `b` (R96, R100, R102): the loop unit's pass ends, then the branches, whose targets issue fourth after them. -/
def Core.sequence (c : Core) (b : Word) : Core :=
  let edge := match c.skipTo with
    | some t => t - 32
    | none => b
  let c := if (endingLevel c.work.loops [] edge).isSome then c.landWhere isCounter c.work.bno else c
  let q := passEnds edge 4 [] c
  let c := q.1
  let next := match q.2 with
    | some a => a
    | none => edge + 32
  let due := c.work.brq.find? fun r => decide (r.left ≤ 1)
  let brq := (c.work.brq.filter fun r => !decide (r.left ≤ 1)).map fun r => { r with left := r.left - 1 }
  let c := { c with skipTo := none, work := { c.work with brq := brq } }
  match due with
  | some r => { c.leaveBodies r.target with work := { (c.leaveBodies r.target).work with pc := r.target, lastPc := r.source } }
  | none => { c with work := { c.work with pc := next } }

/-- The flags after the CF of a bundle: one that a completion sets in the cycle of issue ends set (R68). -/
def Core.clearedFlags (c : Core) (cyc : Nat) (h : Header) : BitVec 16 :=
  if h.cf then c.work.flags &&& ~~~(h.wait &&& ~~~(if c.flagAt = cyc then c.flagHit else 0)) else c.work.flags

/-- Whether a YIELD has issued and not committed: what issues meanwhile belongs to no stated run (R284). -/
def Core.yieldWaits (c : Core) : Bool :=
  let held (g : Segment) : Bool := g.effects.any fun e => match e with
    | .yield _ => true
    | _ => false
  held c.seg || match c.pending with
    | some g => held g
    | none => false

/-- What follows a bundle's slots: CF, the SR counters, the bundle number, sequencing (R55, R68, R93). -/
def Core.endBundle (c : Core) (cyc : Nat) (h : Header) : Core :=
  let w := c.work
  let c := { c with
    srUsed := 0
    callQ := none
    turnAt := cyc + 1
    issued := c.issued + bit (!c.yieldWaits)
    merged := false
    work := { w with
      flags := c.clearedFlags cyc h
      sridx := w.sridx + BitVec.ofNat 64 (64 * c.srUsed)
      rz := if h.rz then w.rz + 1 else w.rz
      bno := w.bno + 1
      lastPc := w.pc
      lastSpace := w.space } }
  (c.landWhere landsEarly c.work.bno).sequence w.pc

/-- Results of the caller are pending: the body of the call that its last bundle holds is not entered yet (R27). -/
def Core.callPending (c : Core) (cyc : Nat) : Bool := c.loadsOut cyc || decide (0 < c.ahead cyc)

/-- A bundle ends: an ungrafted call it holds enters its body, once the results of its own bundle are there too (R27). -/
def finishBundle (p : Nat) (h : Header) (s : State) : State :=
  let s := s.onCore p fun c => c.endBundle s.cyc.toNat h
  if (s.core p).callPending s.cyc.toNat then s else finishCall p (s.core p).work.pc (s.core p).work.space s

/-! ### Readiness -/

/-- What the core's turn comes to: nothing is due, the bundle is held, or it issues. The state carries the time and the marks placed. -/
inductive Ready where
  | none
  | held (s : State)
  | go (b : Bundle) (s : State)
  deriving DecidableEq, Repr

/-- The level that a pre-emption lets drain has left iterations behind: issue goes on at its start, and the bundle at the core's pc is not the one due (R120). -/
def Core.drainedShort (c : Core) : Bool := c.softAsked && c.drained && match c.work.rrec with
  | some r => decide (0 < r.r)
  | none => false

/-- The end of the body that the core runs (R28). -/
def atReturn (s : State) (c : Core) : Bool :=
  match c.work.frames with
  | f :: _ => !c.drainedShort && c.work.space && c.enter.isNone && match (s.imageOf c).routines[f.routine]? with
    | some r => decide (c.work.pc.toNat = 32 * (r.offset + r.len))
    | none => false
  | [] => false

/-- The kernel's end address, reached with nothing pending (R180). -/
def atEnd (s : State) (c : Core) : Bool :=
  !c.sup && !c.drainedShort && !c.work.space && c.enter.isNone && decide (c.work.pc.toNat = (s.imageOf c).stop) && c.work.brq.isEmpty && c.work.loops.all fun l => !l.active

/-- The core has a bundle to issue: it runs, stands at no trap, end or return, no inserted graft holds it (R248), and no step of another kind is due first. -/
def issuable (s : State) (c : Core) : Bool :=
  decide (c.run = .running) && c.sync.isNone && c.saveKind.isNone && !c.restarting && !(c.comp.isSome && !c.work.frames.any (·.inserted)) && !atReturn s c && !atEnd s c &&
    !(c.work.opar.isSome && decide (c.repAt ≤ s.cyc.toNat) && !c.dataHeld s.cyc.toNat)

/-- The cycle of the core's turn. -/
def Core.turn (c : Core) (cyc : Nat) : Nat := Nat.max cyc (Nat.max c.turnAt c.holdUntil)

/-- A leading yield of the core waits for the arbiter's decision: the core commits nothing meanwhile (R282). -/
def leadWaits (s : State) (p : Nat) : Bool := s.groups.any fun (_, g) => g.asked.isSome && decide (g.lead = p)

/-- A held cycle. -/
def holdFor (p n : Nat) (s : State) : Ready :=
  .held (s.onCore p fun c => { c with turnAt := s.cyc.toNat + n })

/-- A mark is placed, unless one stands here already (R107). -/
def placeMark (p : Nat) (s : State) : State :=
  s.onCore p fun c => if c.atMark then { c with markAfter := false } else { c.closeSeg s.cyc.toNat with markAfter := false }

/-- The state as the bundle due reads it: the writes that are visible to it have landed (R93). -/
def State.landed (s : State) (p : Nat) : State := s.onCore p fun c => c.land c.work.bno

/-- A mark stands before a read of a tile that the open segment writes (R112). -/
def tileMark (c : Core) (b : Bundle) : Bool := match c.readsTile b with
  | some t => writesTile c.seg.tileOps t
  | none => false

/-- The marks that stand before the bundle (R107): MK, RZ, the one after a value-returning or YIELD bundle or a loop exit, single-step, a breakpoint, and before a hold on WAIT or RZ when something waits for a mark. Bundles merged under R162 share theirs. `s` is the state that the bundle reads. -/
def marksDue (s : State) (p : Nat) (b : Bundle) : Bool :=
  let c := s.core p
  let h := headerOf b
  let br := !c.skipsBreak && (compare s c c.work.pc c.work.space b).2.isSome
  let wait := !c.flagsReady s.cyc.toNat h.wait || h.rz
  (!c.merged && (h.mark || h.rz || c.markAfter || (c.sstep && !c.sup) || br ||
    (wait && !c.sup && (c.softDue || insertWaits s p)))) || tileMark c b

/-- The bundle that the core's marks and waits are those of: the one at its pc. -/
def State.nextBundle (s : State) (p : Nat) : Option Bundle :=
  let c := s.core p
  fetchAt s c c.work.pc c.work.space

/-- Engine requests that a core may have reserved (R219). -/
def requestLimit : Nat := 1472

/-- The hold of the bundle's RCALL, if it has one. -/
def callHold (s : State) (p : Nat) (b : Bundle) : Nat × Bool :=
  match pressWord b with
  | some (.rcall f) => rcallHold s p f
  | _ => (0, false)

/-- The holds that follow the marks and the wait (R122): a value to return, an M word during an OPAR, queued tile writes, RCALL, engine requests. `s` is the state that the bundle reads. -/
def holdCycles (s : State) (p : Nat) (b : Bundle) : Nat × Bool :=
  let c := s.core p
  let waits := match c.pending with
    | some g => g.waitsAfter
    | none => false
  let queued := c.opaq.map (·.2) ++ (match c.pending with
    | some g => g.tileOps
    | none => [])
  let tile := match c.readsTile b with
    | some t => writesTile queued t
    | none => false
  let call := callHold s p b
  if waits || !c.value.isEmpty || ((pressWord b).isSome && c.work.opar.isSome) || tile then (1, false)
  else if 0 < call.1 then call
  else (bit (decide (requestLimit < c.reserved + newRequests s p b)), false)

/-- The open segment holds more than R114 allows. -/
def overLimits (c : Core) : Bool :=
  decide (48 < (c.seg.stores.foldl (fun n e => n + e.entries) 0)) || decide (128 < c.seg.opas.length)

/-- A trap of issue itself, at the bundle due (R79, R163, R180). -/
def trapAtIssue (p cause sub : Nat) (info pc : Word) (space : Bool) (s : State) : State :=
  let t : TrapRec := ⟨cause, sub, pc, space, info⟩
  if (s.core p).trapsNow then trapNow s p false t else s.onCore p fun c => { c with sync := some t }

/-- BREAK of comparator `n` is taken, with the comparators as they count its match (R269): BSKIP will be set. -/
def breakTaken (p : Nat) (cs : List Comparator) (t : TrapRec) (s : State) : State :=
  trapNow (s.onCore p fun c => { c with com := { c.com with comps := cs } }) p true t

/-- BREAK at the mark before the bundle, for the bundle at `pc` (R269, R270). -/
def breakAt (p n : Nat) (cs : List Comparator) (pc : Word) (s : State) : State :=
  let c := s.core p
  let t : TrapRec := ⟨causeBreak, 7, pc, c.work.space, BitVec.ofNat 64 n⟩
  if c.trapsNow then breakTaken p cs t s else s.onCore p fun c => { c with sync := some t, breakNow := some cs }

/-- The bundle at the core's pc as it would issue now, its limits aside: what it reads has landed (R93). -/
def tryBundle (p : Nat) (b : Bundle) (s : State) : State := runBundle p b (s.landed p)

/-- Whether bundle `b`, at address `pc`, stops the core as it would issue now: at a breakpoint, or by a trap; `s` has not landed what it reads. -/
def bundleStops (p : Nat) (b : Bundle) (pc : Word) (recovery : Bool) (s : State) : Bool :=
  let v := s.landed p
  let c := v.core p
  let h := headerOf b
  let br := !c.skipsBreak && (compare v c pc c.work.space b).2.isSome
  let traps := (issueCheck c.sup recovery b).isSome ||
    ((recovery || !h.rz) && decide ((holdCycles v p b).1 = 0) &&
      ((tryBundle p b (s.onCore p fun c => { c with work := { c.work with pc := pc } })).core p).sync.isSome)
  br || (c.flagsReady s.cyc.toNat h.wait && traps)

/-- What a mark that has been placed holds back still awaits its value, or its return or halt (R113, R153, R179). -/
def Core.resultsWait (c : Core) : Bool := !c.value.isEmpty || match c.pending with
  | some g => g.waitsAfter
  | none => false

/-- A comparator may stop the core at the bundle due: its address and mask match, and its qualifier holds, or is one that a value still out may change (R269). -/
def mayBreak (s : State) (p : Nat) : Bool :=
  let c := (s.landed p).core p
  !c.skipsBreak && match s.nextBundle p with
    | some b => c.work.comps.any fun k => c.armed k && addressMatch s c k c.work.pc c.work.space b &&
        (qualifier c k || decide (bitsOf k.ctl.toNat 10 2 = 1))
    | none => false

/-- The core stands before a bundle that a breakpoint stops, or that traps as it issues, the recovery bundle due before it included: both come before a report and a soft pre-emption at one mark (R162, R260). While a value is out it is not known whether the bundle stops, and a report waits for the value where a breakpoint may come first. -/
def stopsFirst (s : State) (p : Nat) : Bool :=
  let c := s.core p
  if c.sup || c.merged || (s.landed p |>.core p).dataHeld s.cyc.toNat || c.drainedShort then false
  else if c.resultsWait then mayBreak s p
  else
    let first (a : Word) : Bool := match fetchAt s c a c.work.space with
      | none => true
      | some b => bundleStops p b a true s
    let due := !atReturn s c && !atEnd s c
    match c.work.recov, s.nextBundle p with
    | some a, some b => (due && !c.skipsBreak && (compare (s.landed p) ((s.landed p).core p) c.work.pc c.work.space b).2.isSome) || first a
    | some a, none => due || first a
    | none, some b => due && bundleStops p b c.work.pc false s
    | none, none => due

/-- What holds the core at the mark that it stands at: something that waits for it to stand there, unless the bundle's own stop comes first; or single-step while a segment is pending (R119, R248, R259, R260, R270). -/
def heldAtMark (s : State) (p : Nat) : Bool :=
  let c := s.core p
  c.atMark && ((wantsStop s p && !stopsFirst s p) || (c.sstep && !c.sup && c.pending.isSome))

/-- The marks that stand before the bundle due whatever data it waits for: they are placed though it waits for a load's (R107, R112, R251), those of its recovery bundle's tile read with them (R162). -/
def earlyMark (s : State) (p : Nat) : Bool :=
  let c := s.core p
  let tile (b : Option Bundle) : Bool := match b with
    | some b => tileMark ((s.landed p).core p) b
    | none => false
  !c.atMark && ((!c.merged && (c.markAfter || (c.sstep && !c.sup) || match s.nextBundle p with
    | some b => (headerOf b).mark || (headerOf b).rz
    | none => false)) || tile (s.nextBundle p) || tile (c.work.recov.bind fun a => fetchAt s c a c.work.space))

/-- An ungrafted call whose bundle has issued waits for the results of that bundle, and then enters its body (R27). -/
def enterCall (p : Nat) (s : State) : Ready :=
  let c := s.core p
  if c.loadsOut s.cyc.toNat then holdFor p 1 s
  else if 0 < c.ahead s.cyc.toNat then holdFor p (c.ahead s.cyc.toNat) (s.onCore p Core.hasten)
  else .held (finishCall p c.work.pc c.work.space s)

/-- The core's turn (R68, R122): time comes to it, the marks are placed, and it is seen whether the bundle waits; a bundle that waits for a value is not compared yet (R113, R269). A recovery bundle issues before the address that follows is found to hold no bundle (R162, R180). Uncorrectable data in a bundle that a handler fetches is consumed (R310). -/
def ready (p : Nat) (s : State) : Ready :=
  if !issuable s (s.core p) then .none
  else
    let s := s.until ((s.core p).turn s.cyc.toNat)
    let c := s.core p
    if !issuable s c then .none
    else if c.enter.isSome && !c.merged then enterCall p s
    else if earlyMark s p && c.markBlocked s.cyc.toNat then holdFor p 1 s
    else
    let s := if earlyMark s p then placeMark p s else s
    let c := s.core p
    if c.dataHeld s.cyc.toNat then holdFor p 1 s
    else match s.nextBundle p with
      | none =>
        if c.resultsWait || c.drainedShort || heldAtMark s p then holdFor p 1 s
        else if c.work.recov.isSome then .go 0 s
        else .held (trapAtIssue p causeSegv 2 c.work.pc c.work.lastPc c.work.lastSpace s)
      | some b =>
        let h := headerOf b
        let due := marksDue (s.landed p) p b && !c.atMark
        if fetchLost s c c.work.pc c.work.space then .held (consume s p c.work.bno c.work.pc c.work.space 0 0)
        else if due && c.markBlocked s.cyc.toNat then holdFor p 1 s
        else
          let s := if due then placeMark p s else s.onCore p fun c => if c.merged then c else { c with markAfter := false }
          if heldAtMark s p || (s.core p).resultsWait then holdFor p 1 s
          else
            let v := s.landed p
            let c := v.core p
            let q := compare v c c.work.pc c.work.space b
            match if c.skipsBreak || c.merged then none else q.2 with
            | some n => .held (breakAt p n q.1 c.work.pc s)
            | none =>
              if c.work.recov.isSome then .go b s
              else if !c.flagsReady s.cyc.toNat h.wait then holdFor p 1 s
              else match issueCheck c.sup false b with
                | some (cause, info) => .held (trapAtIssue p cause 0 info c.work.pc c.work.space s)
                | none =>
                  let n := holdCycles v p b
                  if n.1 = 0 then .go b s
                  else holdFor p n.1 (if n.2 then s.onCore p fun k => k.hastenCall c.work.queue else s)

/-- The slots of bundle `b` issue (R79, R93): what is due lands, `pre` is applied to the core, the slots run, and what follows them is settled; `fin` is what follows a bundle that stands. A bundle that would exceed a limit stands behind an implicit mark or waits (R97, R114, R115). -/
def issueWith (p : Nat) (b : Bundle) (pre : Core → Core) (fin : State → State) (s : State) : State :=
  let c := s.core p
  let land (s : State) : State := (s.landed p).onCore p pre
  let t := runBundle p b (land s)
  let wait (s : State) : State := s.onCore p fun c => { c with turnAt := s.cyc.toNat + 1 }
  if (t.core p).sync.isSome then settleWith p s t fin
  else if decide (64 < (t.core p).owedEntries) && decide (c.owedEntries < (t.core p).owedEntries) then wait s
  else if overLimits (t.core p) && !c.atMark then
    if c.markBlocked s.cyc.toNat then wait s
    else
      let s := placeMark p s
      settleWith p s (runBundle p b (land s)) fin
  else settleWith p s t fin

/-- The comparators as the bundle issues: HITS counts a match that does not stop it (R269). -/
def hitsAt (s : State) (p : Nat) (pc : Word) (b : Bundle) : List Comparator :=
  let v := s.landed p
  let c := v.core p
  if c.skipsBreak then c.work.comps else (compare v c pc c.work.space b).1

/-- The bundle at the core's pc issues. -/
def issueNow (p : Nat) (b : Bundle) (s : State) : State :=
  let cs := hitsAt s p (s.core p).work.pc b
  issueWith p b (fun c => { c with work := { c.work with comps := cs } }) (finishBundle p (headerOf b)) s

/-- BUNDLE_ISSUE (R68, R93): the core's bundle issues, or a cycle of its holds passes. A rendezvous bundle issues with the other seven (R118). -/
def issueStep (p : Nat) (s : State) : State :=
  match ready p s with
  | .none => s
  | .held s => s
  | .go b s =>
    if (s.core p).work.recov.isSome then s
    else if (headerOf b).rz then s.onCore p fun c => { c with turnAt := s.cyc.toNat + 1 }
    else issueNow p b s

open Host (Outcome)

/-- RCALL as an instruction of its own: its holds count (R27, R122); an ungrafted call enters the body, and its caller continues at the next bundle. -/
def execRcall (f : Fields) (s : State) : Outcome State Fault Refusal :=
  let p := s.cur
  let h := rcallHold s p f
  if operandsOk (.rcall f) && decide (0 < h.1) then
    .next (s.onCore p fun c => { (if h.2 then c.hastenCall c.work.queue else c) with turnAt := s.cyc.toNat + h.1 })
  else
    let t := slotExec (.rcall f) f rcallBody s
    let t := if (t.core p).callQ.isNone then t else t.onCore p fun c => { c with callQ := none }
    .next (finishCall p ((t.core p).work.pc + 32) (t.core p).work.space t)

/-- BUNDLE_ISSUE. -/
def execBundleIssue (p : Nat) (s : State) : Outcome State Fault Refusal := .next (issueStep p s)

/-- A committed load still waits at its bank: what a barrier orders behind it has to wait (R128, R136). -/
def Core.comLoadsWait (c : Core) : Bool := c.com.pend.any Pending.atBank

/-- The cores of a list stand at their rendezvous bundles (R118): every one has its flags, its own previous segment has committed, and its stores, loads at their banks and tile operations are performed (R136). -/
def rendezvousReady : List Nat → State → Option (List (Nat × Bundle)) × State
  | [], s => (some [], s)
  | p :: l, s =>
    match ready p s with
    | .none => (none, s)
    | .held s => (none, s)
    | .go b s =>
      let c := s.core p
      let r := rendezvousReady l s
      if (headerOf b).rz && c.work.recov.isNone && c.pending.isNone && c.heldStores.isEmpty && !c.comLoadsWait && c.opaq.isEmpty then
        (r.1.map fun bs => (p, b) :: bs, r.2)
      else (none, r.2)

/-- RENDEZVOUS (R118): the cores of the cluster that have issued the fewest rendezvous bundles issue theirs together; the others have issued that one before, and a rollback has brought these back to it. -/
def execRendezvous (cluster : Nat) (s : State) : Outcome State Fault Refusal :=
  let ps := strided (8 * cluster) 1 8
  let count (p : Nat) : Nat := (s.core p).work.rz.toNat
  let k := ps.foldl (fun n p => Nat.min n (count p)) (count (8 * cluster))
  let r := rendezvousReady (ps.filter fun p => decide (count p = k)) s
  match r.1 with
  | some bs => .next (bs.foldl (fun s (p, b) => issueNow p b s) r.2)
  | none => .next s

end Sys2Proof.Machine
end

