-- ==== Sys2Proof/Machine/HomeEvents.lean ====
section
/-! DEFINITION. The steps of engines and homes: completions, faults, matches and gates of engine operations; atomics at their homes, their merging and replay (R125, R134 to R145, R221 to R234, R310, R325, R331). -/

namespace Sys2Proof.Machine

open Host (Outcome)

/-- The addresses that an operation reads and writes, each with its size and direction. -/
def EngineOp.touched (o : EngineOp) : List (Nat × Nat × Bool) :=
  (o.cmd.sources.map fun (_, va) => (va, o.cmd.sourceSize, false)) ++
    o.cmd.dests.map fun (_, va) => (va, descEsize o.cmd.desc, true)

/-- The locations that an operation reads and writes, those that can be told. -/
def opLocs (s : State) (o : EngineOp) : List Nat :=
  o.touched.flatMap fun (va, n, w) => match o.locs s va n w with
    | .ok l => l
    | .error _ => []

/-- The locations that an operation reads, in iteration order, those that can be told. -/
def sourceLocs (s : State) (o : EngineOp) : List Nat :=
  o.cmd.sources.flatMap fun (_, va) => match o.locs s va o.cmd.sourceSize false with
    | .ok l => l
    | .error _ => []

/-- An access addressed on behalf of the next task waits at a bank until it is released to it, which its first bundle shows (R106); what was released before that task was delivered is not on its behalf. While the next task is saved it has no bank (R18). -/
def bankWaits (s : State) (o : EngineOp) : Bool :=
  o.touched.any fun (va, n, _) => [va, va + (n - 1)].any fun a =>
    match windowOf o.origin.1 a with
    | some (.barrel q off) =>
      let c := s.core q
      (decide (c.run = .waiting) && decide (c.ctx.toNat = o.ctx) && decide (c.delivered ≤ o.released) && c.nextBanks.getLsbD (off / 0x4000) &&
        (heldBanks s q).getLsbD (off / 0x4000)) || savedWait s q o.ctx (off / 0x4000) o.released
    | _ => false

/-- Stores that were published before the operation's release and that memory does not hold yet (R132); `queued` are those to the own B-plane. -/
def EngineOp.storesWait (s : State) (o : EngineOp) : Bool := (s.core o.origin.1).heldStores.any fun e => decide (e.bno < o.origin.2)
def EngineOp.queuedStores (s : State) (o : EngineOp) : Bool :=
  (s.core o.origin.1).opaq.any fun q => q.2.isStore && decide (q.1 < o.origin.2)

/-- An access of core `p`, of a bundle before bundle `n`, that is not performed yet: a load at its bank, an atomic (Table 6.2 fk, R135). An atomic's bundle is the last one that has committed. -/
def State.accessesWait (s : State) (p n : Nat) : Bool :=
  let c := s.core p
  c.inFlight.any (fun q => q.atBank && decide (q.bno < n)) ||
    (decide (c.com.bno ≤ n) && s.reqs.any fun (_, r) => !r.applied && r.parts.any fun q => decide (q.core = p) && (c.valueReq q.vid).isSome)

/-- An access of the operation's core, of its bundle or an older one, is not performed yet (Table 6.2 fk, R135). -/
def EngineOp.accessesWait (s : State) (o : EngineOp) : Bool := s.accessesWait o.origin.1 (o.cmd.bno + 1)

/-- The command in a lower slot of the same bundle comes first where both write a byte (R130). -/
def EngineOp.mateFirst (s : State) (o : EngineOp) : Bool :=
  s.ops.any fun (_, q) => decide (q.origin = o.origin) && decide (q.released = o.released) && decide (q.cmd.pc = o.cmd.pc) &&
    decide (q.cmd.space = o.cmd.space) && decide (q.cmd.bno = o.cmd.bno) && decide (q.cmd.slot < o.cmd.slot) &&
    q.touched.any fun (va, n, w) => w && o.touched.any fun (va', n', w') => w' && decide (va < va' + n') && decide (va' < va + n)

/-- What an operation still waits for: accesses of its core of its bundle and older ones (R135), the command before it in its bundle (R130), stores that its core published before its release (R128, R132), press entries issued before its bundle where it accesses the own B-plane (R210), a bank to be released (R106), a scrub (R310). -/
def opBlocked (s : State) (o : EngineOp) : Bool :=
  let locs := opLocs s o
  o.storesWait s || o.accessesWait s || o.mateFirst s || (o.queuedStores s && locs.any (isOwnBplane o.origin.1)) ||
    ((s.core o.origin.1).opaq.any (fun q => !q.2.isStore && decide (q.1 ≤ o.cmd.bno)) && locs.any (isOwnBplane o.origin.1)) || bankWaits s o ||
    (!s.scrubbing.isEmpty && locs.any s.scrubs)

/-- The conditions of R134 and R232: every access of its core before the DRAIN is performed, queued OPAs that read the B-plane included, and at system scope its packets have left. -/
def drainDone (s : State) (k : Nat) (o : EngineOp) : Bool :=
  let mine (q : Packet) : Bool := match q.source with
    | .send j _ | .redx j _ => match Store.find? s.ops j with
      | some q' => decide (q'.core = o.core) && decide (j < k)
      | none => false
    | .foreign _ _ | .entry _ _ _ | .kept => false
  !o.storesWait s && !o.queuedStores s && !((s.core o.origin.1).opaq.any fun q => decide (q.1 ≤ o.cmd.bno)) && (decide (o.cmd.f ≠ 4) || !s.quarantine.any fun (_, l) => l.any mine)

/-! ### Reductions -/

/-- What flits have brought of the contribution of a rank of another chip to the reduction at the head (R229, R331). -/
def RedGroup.arrived (g : RedGroup) (rank : Nat) : Option Contribution :=
  g.incoming.find? fun c => decide (c.rank = rank) && decide (c.m = g.number)

/-- Whether the contributions' element counts, formats and element sizes agree, those that have come from other chips included; one that has ended does not (R229). Operations that differ are refused as formats are, since one result has one operation (DESIGN CHOICE, log 94: the rule names counts, formats and ESIZE). -/
def redxAgrees (s : State) (g : RedGroup) (es : List (Nat × Nat)) : Bool :=
  match es.mapM fun (_, k) => Store.find? s.ops k with
  | none => false
  | some os => match os with
    | [] => true
    | o :: _ =>
      (os.all fun q => decide (q.cmd.f = o.cmd.f) && decide (descTotal q.cmd.desc = descTotal o.cmd.desc) &&
        decide (descEsize q.cmd.desc = redxWidth q.cmd.f)) &&
      g.incoming.all fun c => decide (c.m ≠ g.number) || (decide (c.f = o.cmd.f) && decide (c.total = descTotal o.cmd.desc))

/-- The result over all ranks, element by element. -/
def redxElems (f : BitVec 4) (total : Nat) (xs : List (List Nat)) : List Nat :=
  (List.range total).map fun t => redxResult f (xs.map fun l => l.getD t 0)

/-- Whether the flits and packets that carry operation `k`'s data have left and the peer has them (R328). -/
def flitsTaken (s : State) (k : Nat) : Bool :=
  let mine (q : PacketSource) : Bool := match q with
    | .send j _ | .redx j _ => decide (j = k)
    | .foreign _ _ | .entry _ _ _ | .kept => false
  !(s.quarantine.any fun (_, l) => l.any fun q => mine q.source) && !(s.links.any fun (_, l) => l.unacked.any fun u => mine u.2.1)

/-- Packets have taken all elements of a rank's contribution (R331). -/
def EngineOp.contributed (o : EngineOp) : Bool := o.contrib.isSome && decide (descTotal o.cmd.desc ≤ o.sent)

/-- The elements that rank `p` contributes to the group's next reduction: a local rank's source, in a group with ranks on other chips once it has reached them, so that a link that fails before ends every rank (R329, R332); another chip's, once flits have brought all of it (R328). -/
def rankElems (s : State) (g : RedGroup) (es : List (Nat × Nat)) (p : Nat) : Option (List Nat) :=
  if remote p then (g.arrived p).bind fun c => if c.total ≤ c.elems.length then some c.elems else none
  else (es.find? fun q => decide (q.1 = p)).bind fun q => (Store.find? s.ops q.2).bind fun o =>
    if g.ranks.any remote then (if o.contributed && flitsTaken s q.2 then o.contrib else none)
    else if decide (o.stage = .running) && o.limit.isNone && !opBlocked s o then (sourceElems s o).toOption
    else none

/-- The group's next reduction is formed: every contribution is there, and every rank's operation holds the result (R229). -/
def formRedx (s : State) (h : Nat) : State :=
  match Store.find? s.redGroups h with
  | none => s
  | some g => match redxEntries g with
    | none => s
    | some es =>
      if !redxAgrees s g es || g.failed then s
      else match g.ranks.mapM (rankElems s g es), es with
        | some xs, (_, k) :: _ =>
          match Store.find? s.ops k with
          | none => s
          | some o =>
            let res := redxElems o.cmd.f (descTotal o.cmd.desc) xs
            let done := es.map (·.2)
            { s with
              ops := s.ops.map fun (j, q) => if done.contains j then (j, { q with result := some res }) else (j, q)
              redGroups := Store.put s.redGroups h (g.next es) }
        | _, _ => s

/-- Whether operation `k` belongs to the next reduction of its group, and that one is refused (R229). -/
def redxRefused (s : State) (k : Nat) (o : EngineOp) : Bool :=
  match Store.find? s.redGroups (o.cmd.b.toNat % 65536) with
  | none => false
  | some g => match redxEntries g with
    | some es => es.any (fun q => decide (q.2 = k)) && !redxAgrees s g es
    | none => false

/-- Whether operation `k` is its rank's contribution to the reduction at the head of its group. -/
def redxHead (g : RedGroup) (k : Nat) : Bool :=
  g.pending.any fun q => decide (q.2 = k) && decide (g.pending.find? (fun r => decide (r.1 = q.1)) = some q)

/-- Whether operation `k` belongs to a reduction that a failed link has ended (R329). -/
def redxLost (s : State) (k : Nat) (o : EngineOp) : Bool :=
  match Store.find? s.redGroups (o.cmd.b.toNat % 65536) with
  | none => false
  | some g => g.failed && redxHead g k

/-! ### Completion -/

/-- The channel of a SEND or RECV. -/
def channelOf (s : State) (o : EngineOp) : Channel := Store.get Channel.none s.channels (o.cmd.b.toNat % 4096)

/-- The bytes of `n` elements written to an operation's destination. -/
def writeDest (s : State) (o : EngineOp) (bs : List Byte) : Option State :=
  match destLocs s o with
  | .ok locs => some (s.writeBytes (locs.zip bs))
  | .error _ => none

/-- The bytes that a matched RECV receives: its SEND's source, once the SEND waits for nothing; from another chip what flits have brought (R230, R328). -/
def recvBytes (s : State) (o : EngineOp) : Except EngErr (List Byte) :=
  let n := descTotal o.cmd.desc * descEsize o.cmd.desc
  if remote (channelOf s o).sender then
    if n ≤ (channelOf s o).inbox.length then .ok ((channelOf s o).inbox.take n) else .error (.code 0)
  else match o.mate.bind fun m => Store.find? s.ops m with
    | some m => if opBlocked s m || m.limit.isSome then .error (.code 0) else sourceBytes s m
    | none => .error (.code 0)

/-- The effect of an operation that completes; nothing while its conditions of Table 9.7 do not hold. -/
def completedState (s : State) (k : Nat) (o : EngineOp) : Option State :=
  match o.cmd.kind with
  | .cpy | .cpyt | .rack | .ckpt => if (firstError (copyElems s o)).isNone then some (performCopy s o) else none
  | .migr =>
    let done (l : Leaf) : Bool := !deviceFailed s l.pa && (o.arrived.contains l.va || (decide (tierOf l.pa = bit (o.cmd.f.getLsbD 0)) && !l.mig))
    if (migrLeaves s o.ctx o.cmd).all done && !s.moves.any (fun m => decide (m.op = k)) then some s else none
  | .redx =>
    let s := if o.result.isNone then formRedx s (o.cmd.b.toNat % 65536) else s
    match (Store.find? s.ops k).bind (·.result) with
    | some xs => writeDest s o (xs.flatMap fun x => toBytes (descEsize o.cmd.desc) x)
    | none => none
  | .send =>
    if remote (channelOf s o).receiver then
      if decide (descTotal o.cmd.desc * descEsize o.cmd.desc ≤ o.sent) && flitsTaken s k then some s else none
    else if o.result.isSome then some s else none
  | .recv => match recvBytes s o with
    | .error _ => none
    | .ok bs => (writeDest s o bs).map fun t =>
        { t with
          channels := if remote (channelOf s o).sender then
              Store.put t.channels (o.cmd.b.toNat % 4096) { channelOf t o with inbox := (channelOf t o).inbox.drop bs.length } else t.channels
          ops := t.ops.map fun (j, q) => if o.mate = some j then (j, { q with result := some [] }) else (j, q) }
  | .drain => if drainDone s k o then some s else none
  | .pref => some s

/-- The link that carries a channel's data to another chip (log 18). -/
def channelLink (ch : Nat) : Nat := ch % 24

/-- Whether an endpoint's quarantine holds 64 packets: further ones wait at their engine (R313). -/
def quarantineFull (s : State) (e : Nat) : Bool := decide (64 ≤ (Store.get [] s.quarantine e).length)

/-- The bytes that a packet of a SEND takes: what one flit carries (DESIGN CHOICE, log 95: R245 shows several packets of a SEND and gives no size). -/
def packetBytes : Nat := 256

/-- A SEND to another chip reads the next of its bytes into egress quarantine (R230, R313); a source that cannot be read makes no packet. -/
def sendPacket (ch k : Nat) (s : State) : State :=
  match Store.find? s.ops k with
  | none => s
  | some o => match sourceBytes s o with
    | .error _ => s
    | .ok bs =>
      if quarantineFull s (channelLink ch) then s
      else
        let part := (bs.drop o.sent).take packetBytes
        let regions := ((((sourceLocs s o).drop o.sent).take packetBytes).map (regionOf (dieOf o.origin.1))).eraseDups
        putPacket (channelLink ch) ⟨.send k o.sent, s.cyc.toNat, regions, false, part⟩
          { s with ops := s.ops.map fun (j, r) => if j = k then (j, { r with sent := o.sent + part.length }) else (j, r) }

/-- The link that carries a group's contributions to other chips (log 18). -/
def groupLink (h : Nat) : Nat := h % 24

/-- The bytes of a packet of a contribution of `total` elements: group, reduction number, rank, F, element count, then the packet's elements (R331; the layout is the model's, log 18). -/
def contributionBytes (h m rank : Nat) (o : EngineOp) (total : Nat) (xs : List Nat) : List Byte :=
  toBytes 2 h ++ toBytes 8 m ++ toBytes 2 rank ++ toBytes 1 o.cmd.f.toNat ++ toBytes 4 total ++
    xs.flatMap fun x => toBytes (redxWidth o.cmd.f) x

/-- The elements of a contribution that one packet takes: with the bytes before them they fill one flit at most (DESIGN CHOICE, log 95: R331 gives no size). -/
def packetElems (f : BitVec 4) : Nat := (packetBytes - 17) / redxWidth f

/-- The next elements of a rank's contribution to a reduction with ranks on other chips are read into egress quarantine when the reduction is at the head of its group (R229, R313, R331). -/
def contribute (k : Nat) (o : EngineOp) (s : State) : State :=
  let h := o.cmd.b.toNat % 65536
  match Store.find? s.redGroups h with
  | none => s
  | some g => match sourceElems s o with
    | .error _ => s
    | .ok xs =>
      if quarantineFull s (groupLink h) || !redxHead g k || g.failed then s
      else
        let rank := g.ranks.findIdx fun p => decide (p = o.origin.1)
        let part := (xs.drop o.sent).take (packetElems o.cmd.f)
        let size := o.cmd.sourceSize
        let locs := ((sourceLocs s o).drop (size * o.sent)).take (size * part.length)
        putPacket (groupLink h) ⟨.redx k o.sent, s.cyc.toNat, (locs.map (regionOf (dieOf o.origin.1))).eraseDups, false,
            contributionBytes h g.number rank o xs.length part⟩
          { s with ops := s.ops.map fun (j, r) =>
              if j = k then (j, { r with sent := o.sent + part.length, contrib := some (o.contrib.getD [] ++ part) }) else (j, r) }

/-- Whether an operation has data to hand to its link before it can complete (R230, R313, R331). -/
def handsOver (s : State) (o : EngineOp) : Bool :=
  match o.cmd.kind with
  | .send => remote (channelOf s o).receiver && decide (o.sent < descTotal o.cmd.desc * descEsize o.cmd.desc)
  | .redx => match Store.find? s.redGroups (o.cmd.b.toNat % 65536) with
    | some g => g.ranks.any remote && !o.contributed && o.result.isNone
    | none => false
  | _ => false

/-- The next of an operation's data goes towards its link. -/
def handOver (k : Nat) (o : EngineOp) (s : State) : State :=
  if o.cmd.kind = .send then sendPacket (o.cmd.b.toNat % 4096) k s else contribute k o s

/-- Operation `k` ends in fault `code`: a copy leaves what R222 and R148 allow; the other end of a transfer ends with it. -/
def failOp (k code row : Nat) (s : State) : State :=
  match Store.find? s.ops k with
  | none => s
  | some o =>
    let copies := match o.cmd.kind with
      | .cpy | .cpyt | .rack | .ckpt => true
      | _ => false
    let s := if copies then performPartial s o row else s
    let s := if o.cmd.kind = .migr then dropMoves s k else s
    let s := faultOp s k code (if o.cmd.kind = .cpyt then some row else none)
    match o.mate with
    | some m => faultOp s m code none
    | none => s

/-- Operation `k` completes (R221): its writes take place, its translations stay in the buffers, it arrives on its object and sets its flag. A CPYT that its release has found faulting faults once the rows before that are written (R148, R222); an operation whose translation fault has been declined faults as soon as it waits for nothing (R302). -/
def completeOp (k : Nat) (s : State) : State :=
  match Store.find? s.ops k with
  | none => s
  | some o =>
    if decide (o.stage ≠ .running) || opBlocked s o then s
    else match o.declined with
      | some (row, code) => checkGates (failOp k code row s)
      | none =>
        if handsOver s o then handOver k o s
        else match completedState s k o with
          | none => s
          | some t =>
            let t := cacheVAs t o (o.touched.map (·.1))
            checkGates (match o.limit with
              | some (row, code) => faultOp t k code (some row)
              | none => finishOp t k)

/-- ENGINE_COMPLETION. -/
def execEngineCompletion (op : Nat) (s : State) : Outcome State Fault Refusal := .next (completeOp op s)

/-- The fault code of what could not be read or located, where system software is not asked first. -/
def faultFound {α : Type} (e : Except EngErr α) : Option (Nat × Nat) :=
  match e with
  | .error (.code n) => if n = 0 then none else some (n, 0)
  | _ => none

/-- The fault that an operation meets during its work, the first in its order, with the row of a CPYT (R148, R222, R229, R310, R325). -/
def opError (s : State) (k : Nat) (o : EngineOp) : Option (Nat × Nat) :=
  match o.cmd.kind with
  | .cpy | .cpyt | .rack | .ckpt => match firstError (copyElems s o) with
    | some (r, .code n) => some (n, r)
    | _ => none
  | .redx =>
    if redxLost s k o then some (7, 0)
    else if redxRefused s k o then some (5, 0)
    else (if o.result.isNone && !o.contributed then faultFound (sourceBytes s o) else none).or (faultFound (destLocs s o))
  | .send => faultFound (sourceBytes s o)
  | .recv => (faultFound (recvBytes s o)).or (faultFound (destLocs s o))
  | .migr =>
    let gone (pa : Nat) : Bool := deviceFailed s pa
    if (migrLeaves s o.ctx o.cmd).any (fun l => gone l.pa || gone (l.pa + (l.size - 1))) then some (8, 0)
    else if migrLost s o.ctx o.cmd then some (4, 0) else none
  | .drain | .pref => none

/-- ENGINE_FAULT: an operation meets a fault of the code given (R222). -/
def engineFaultStep (k : Nat) (code : BitVec 7) (s : State) : State :=
  match Store.find? s.ops k with
  | none => s
  | some o =>
    if decide (o.stage ≠ .running) || opBlocked s o then s
    else match opError s k o with
      | some (n, row) => if n = code.toNat then checkGates (failOp k n row s) else s
      | none => s

def execEngineFault (op : Nat) (code : BitVec 7) (s : State) : Outcome State Fault Refusal := .next (engineFaultStep op code s)

/-- The size in bytes that a SEND or RECV names. -/
def EngineOp.bytes (o : EngineOp) : Nat := descTotal o.cmd.desc * descEsize o.cmd.desc

/-- Operation `k` runs with the given match. -/
def startOp (k : Nat) (m : Option Nat) (s : State) : State :=
  { s with ops := s.ops.map fun (j, q) => if j = k then (j, { q with stage := .running, mate := m }) else (j, q) }

/-- A transfer of operation `k` meets its end on another chip, as the run chooses (R230, log 18): it starts, or the totals differ and it is refused, or nothing is posted there yet. It waits while the link is out of service (R329). -/
def askRemote (ch k : Nat) (started : Channel) (s : State) : State :=
  let h := Store.get Channel.none s.channels ch
  if decide (s.cyc.toNat < h.askAt) || !(s.link (channelLink ch)).up then s
  else
    let t := { s with channels := Store.put s.channels ch started, free := s.free + 1 }
    match Config.freeChoice s.free % 3 with
    | 0 => startOp k none t
    | 1 => checkGates (faultOp t k 5 none)
    | _ => { s with channels := Store.put s.channels ch { h with askAt := s.cyc.toNat + 1 }, free := s.free + 1 }

/-- SEND_MATCH (R230): the oldest SEND meets the oldest RECV; unequal totals refuse both. -/
def sendMatchStep (ch : Nat) (s : State) : State :=
  match Store.find? s.channels ch with
  | none => s
  | some h =>
    let popped (a b : List Nat) : State := { s with channels := Store.put s.channels ch { h with sends := a, recvs := b } }
    match h.sends, h.recvs with
    | k :: ks, m :: ms =>
      match Store.find? s.ops k, Store.find? s.ops m with
      | some o, some q =>
        if o.bytes = q.bytes then startOp k (some m) (startOp m (some k) (popped ks ms))
        else checkGates (faultOp (faultOp (popped ks ms) k 5 none) m 5 none)
      | some _, none => popped (k :: ks) ms
      | none, _ => popped ks (m :: ms)
    | k :: ks, [] =>
      if remote h.receiver then askRemote ch k { h with sends := ks } s else s
    | [], m :: ms => if remote h.sender then askRemote ch m { h with recvs := ms } s else s
    | [], [] => s

def execSendMatch (channel : Nat) (s : State) : Outcome State Fault Refusal := .next (sendMatchStep channel s)

/-- CKPT_GATE_OPEN (R233). -/
def ckptGateStep (k : Nat) (s : State) : State :=
  match Store.find? s.ops k with
  | some o =>
    if decide (o.cmd.kind = .ckpt) && decide (o.stage = .waiting) && gateOpen s (o.cmd.b.setWidth 32) then startOp k none s else s
  | none => s

def execCkptGateOpen (op : Nat) (s : State) : Outcome State Fault Refusal := .next (ckptGateStep op s)

/-! ### Atomics -/

/-- Requests of one source, arrivals apart, that it issued before and that no home has applied, each for its constituent there. -/
def earlierParts (s : State) (n : Nat) (q : AtomPart) : List AtomReq :=
  s.reqs.flatMap fun (m, r) =>
    if decide (m ≠ n) && !r.applied && decide (r.op ≠ .arrive) then
      (r.parts.filter fun a => decide (a.src = q.src) && seqBefore a.seq q.seq).map fun _ => r
    else []

/-- Whether two requests share a byte. -/
def AtomReq.meets (a b : AtomReq) : Bool := overlap a.loc a.width b.loc b.width

/-- An older load of core `p` that waits at its bank comes before its value operation `vid`, as it would before a store of its class (Table 6.2 lo, R131). -/
def State.ownLoad (s : State) (p vid : Nat) (locs : List Nat) : Bool :=
  let c := s.core p
  match c.valueReq vid with
  | some v => c.loadsBefore p v.cls locs (c.com.bno - 1)
  | none => false

/-- The locations of a request. -/
def AtomReq.locs (r : AtomReq) : List Nat := (List.range r.width).map fun k => r.loc + k

/-- Whether everything that precedes core `p`'s arrival, request `n`, is visible: its stores, loads and tile operations, and its other requests (R136). -/
def arrivalReady (s : State) (n p : Nat) : Bool :=
  let c := s.core p
  c.heldStores.isEmpty && !c.comLoadsWait && c.opaq.isEmpty &&
    s.reqs.all fun (m, r) => decide (m = n) || r.applied || decide (r.op = .arrive) || !r.parts.any fun q => decide (q.core = p)

/-- Whether a request may be applied: its MA waits are over (R128), its core's own stores and loads that come before it are performed (R130, R131, R132), what precedes an arrival is visible (R136), its bank is not being scrubbed (R310), and of one source at most 64 requests are under way to the home and those that share a byte keep their order (R130, R143, R205). -/
def atomReady (s : State) (n : Nat) (r : AtomReq) : Bool :=
  !r.applied && r.after.isEmpty && !s.scrubs r.loc &&
    r.parts.all fun q =>
      let e := earlierParts s n q
      decide ((e.filter fun a => decide (s.homeOf a.loc = s.homeOf r.loc)).length < 64) && e.all (fun a => !a.meets r) &&
        (isPeer q.core || !(s.ownStore q.core q.vid r.locs || s.ownLoad q.core q.vid r.locs)) && (!isPeer q.core || decide ((Store.get [] s.quarantine (q.core - 2 ^ 22)).length < 64)) && (decide (r.op ≠ .arrive) || arrivalReady s n q.core)

/-- One constituent of a request is applied at its home: a tag in the window gives the recorded value again, one older than the window is dropped and counted, any other is applied and recorded (R140 to R143). The core's loads that wait at the bank keep what stood there before (R131). An arrival works on all 64 bits of the object, and BARR returns them as they stood, bits 63:56 too, which a program may have stored nonzero (DESIGN CHOICE, log 89: Table 6.4 has them RZ, a property of registers by R5, and the object is memory). -/
def applyPart (r : AtomReq) (s : State) (q : AtomPart) : State :=
  let die := if isPeer q.core then endpointDie (q.core - 2 ^ 22) else dieOf q.core
  match windowFind s r.loc q with
  | some (v, st) => sendBack q.core q.vid q.lane v st s
  | none =>
    if staleTag s r.loc q then countDie s die 4
    else
      let old := s.readNat r.loc r.width
      let n := r.op.apply r.width r.bf16 old q.operand.toNat r.cmp.toNat
      let bs := bytesAt r.loc (toBytes r.width n.1)
      let s := (if isPeer q.core then s else keepBytes q.core (s.core q.core).work.bno bs s).writeBytes bs
      sendBack q.core q.vid q.lane (BitVec.ofNat 64 old) n.2 (recordTag r.loc q.src q.seq (BitVec.ofNat 64 old) n.2 s)

/-- The first constituent of each core. -/
def oncePerCore (l : List AtomPart) : List AtomPart :=
  l.foldl (fun acc q => if acc.any fun a => decide (a.core = q.core) then acc else acc ++ [q]) []

/-- ATOMIC_AT_HOME (R140 to R143): the request's constituents are applied in order, once each. Uncorrectable data there is consumed by the cores that asked, and nothing is applied (R310); a peer's request alone gets no answer. -/
def atomicStep (n : Nat) (s : State) : State :=
  match Store.find? s.reqs n with
  | none => s
  | some r =>
    if !atomReady s n r then s
    else if r.locs.any s.isPoisoned then
      let own := r.parts.filter fun q => !isPeer q.core
      if own.any fun q => (s.core q.core).restarting then s
      else if own.isEmpty then { s with reqs := Store.erase s.reqs n }
      else (oncePerCore own).foldl (fun s q => consumeValue q.core q.vid q.lane s) s
    else
      checkGates (((r.parts.map (·.core)).filter fun p => !isPeer p).eraseDups.foldl (fun s p => flushCore p s)
        (r.parts.foldl (applyPart r) { s with
          reqs := if r.parts.all fun q => isPeer q.core then Store.erase s.reqs n else Store.put s.reqs n { r with applied := true } }))

def execAtomicAtHome (req : Nat) (s : State) : Outcome State Fault Refusal := .next (atomicStep req s)

/-- The operations that a router may merge (R141). -/
def AtomOp.mergeable : AtomOp → Bool
  | .add | .min | .max | .minu | .maxu | .and | .or | .xor => true
  | .exch | .cas | .fadd | .arrive => false

/-- Whether constituent `a` stands before `b` in a merged request: source number, then issue order (R141, R143). -/
def AtomPart.before (s : State) (a b : AtomPart) : Bool :=
  decide (s.source a.src < s.source b.src) || (decide (s.source a.src = s.source b.src) && seqBefore a.seq b.seq)

/-- Inserts a constituent in its place. -/
def insertPart (s : State) (q : AtomPart) : List AtomPart → List AtomPart
  | [] => [q]
  | a :: l => if a.before s q then a :: insertPart s q l else q :: a :: l

/-- Requests that qualify for merging with the first of them (R141). -/
def mergeOk (s : State) (ns : List Nat) (rs : List AtomReq) : Bool :=
  match rs with
  | [] => false
  | r :: _ =>
    decide (2 ≤ rs.length) && decide (rs.length = ns.length) && decide (ns.eraseDups = ns) &&
      decide ((rs.flatMap AtomReq.parts).length ≤ 8) && r.op.mergeable &&
      rs.all fun q => !q.applied && q.after.isEmpty && decide (q.op = r.op) && decide (q.loc = r.loc) && decide (q.width = r.width) &&
        rs.all (fun o => decide (q.born < o.born + 16)) &&
        q.parts.all fun a => s.reqs.all fun (m, o) =>
          ns.contains m || o.applied || !o.meets r || !o.parts.any fun b => decide (b.src = a.src) && seqBefore b.seq a.seq

/-- ROUTER_MERGE (R141): the requests become one. -/
def routerMergeStep (ns : List Nat) (s : State) : State :=
  let rs := ns.filterMap fun n => Store.find? s.reqs n
  match rs with
  | [] => s
  | r :: _ =>
    if mergeOk s ns rs then
      let parts := (rs.flatMap AtomReq.parts).foldr (insertPart s) []
      let rest := s.reqs.filter fun (n, _) => !ns.contains n
      { s with reqs := Store.put rest s.nextReq { r with parts := parts }, nextReq := s.nextReq + 1 }
    else s

def execRouterMerge (reqs : List Nat) (s : State) : Outcome State Fault Refusal := .next (routerMergeStep reqs s)

/-- ATOMIC_REQUEST_REPLAY (R143): the request is sent again with the tags of its constituents; a merged one as the same merged request. A WAITB that is replayed meets its own tag: while it waits it is one evaluation still, afterwards its home returns the recorded value, which its core has. -/
def replayStep (n : Nat) (s : State) : State :=
  match Store.find? s.reqs n with
  | some r => { s with reqs := Store.put s.reqs s.nextReq { r with applied := false }, nextReq := s.nextReq + 1 }
  | none => s

def execAtomicRequestReplay (req : Nat) (s : State) : Outcome State Fault Refusal := .next (replayStep req s)

end Sys2Proof.Machine
end

