-- ==== Sys2Proof/Machine/CoreEvents.lean ====
section
/-! DEFINITION. The core's own steps besides the issue of a bundle: task start, recovery bundles, OPAR repetitions, arrivals, commits, values, the press's queue, checks, strikes, rollbacks, traps (R16, R63, R97, R107 to R117, R147, R153, R162, R212, R259, R308 to R319, R339). -/

namespace Sys2Proof.Machine

open Host (Outcome)

/-! ### Task start -/

/-- Locations `lo` to `hi - 1` set to zero, which clears their marks (R310, R339). -/
def zeroRange (lo hi : Nat) (s : State) : State :=
  { s with
    mem := s.mem.filter fun (a, _) => decide (a < lo) || decide (hi ≤ a)
    poisoned := s.poisoned.filter fun a => decide (a < lo) || decide (hi ≤ a) }

/-- The plan banks that come from another context, and the B-plane when the core does, are zeroed (R339). -/
def zeroForContext (p : Nat) (banks : BitVec 32) (ctx : Nat) (s : State) : State :=
  let c := s.core p
  let s := (List.range 32).foldl (fun s b =>
    if banks.getLsbD b && decide (Store.find? c.bankCtx b ≠ some ctx) then
      zeroRange (coreLoc p (0x4000 * b)) (coreLoc p (0x4000 * b + 0x4000)) s
    else s) s
  let s := if c.prevCtx = some ctx then s else zeroRange (coreLoc p 0x80000) (coreLoc p 0xC0000) s
  s.onCore p fun c =>
    { c with
      prevCtx := some ctx
      bankCtx := (List.range 32).foldl (fun m b => if banks.getLsbD b then Store.put m b ctx else m) c.bankCtx }

/-- Reports held for a context are delivered at marks of the core that now runs it (R178). -/
def takeReports (p ctx : Nat) (s : State) : State :=
  let mine := (s.heldReports.filter fun r => decide (r.1 = ctx)).map (·.2)
  { (s.onCore p fun c => { c with async := c.async ++ mine }) with heldReports := s.heldReports.filter fun r => decide (r.1 ≠ ctx) }

/-- A context begins or continues on a core: its pinned segments are loaded (R289), reports held for it arrive, an abandonment that waited for a core goes on (R178). -/
def contextRuns (p : Nat) (s : State) : State :=
  let ctx := (s.core p).ctx.toNat
  pump (takeReports p ctx (s.onCore p fun c => { c with segs := loadSegs s ctx }))

/-- FIRST_BUNDLE (R16): every plan bank has been released to the task that waits on the core; its first bundle issues. -/
def firstBundleStep (p : Nat) (s : State) : State :=
  let c := s.core p
  if decide (c.run = .waiting) && decide (heldBanks s p &&& c.nextBanks = 0) then
    let s := zeroForContext p c.nextBanks c.ctx.toNat s
    let s := s.onCore p fun c => { c with run := .running, bown := c.nextBanks, turnAt := Nat.max c.turnAt s.cyc.toNat }
    issueStep p (contextRuns p s)
  else s

def execFirstBundle (p : Nat) (s : State) : Outcome State Fault Refusal := .next (firstBundleStep p s)

/-! ### Recovery bundles -/

/-- BREAK at a recovery bundle's address, which is TPC, before the merged bundle: RESUME is that bundle's, RECOV stands (R270). -/
def breakRecovery (p n : Nat) (cs : List Comparator) (a : Word) (s : State) : State :=
  let c := s.core p
  if !c.atMark && c.markBlocked s.cyc.toNat then s.onCore p fun c => { c with turnAt := s.cyc.toNat + 1 }
  else breakAt p n cs a (placeMark p s)

/-- What follows a recovery bundle (R162): its CF, and that it is the last one issued (R180); the bundle it merges into is still to issue, without a mark between them. One boundary ends both, and their SR conversions advance SRIDX there: the recovery bundle's take the first counters (R55; DESIGN CHOICE, log 79: the rule gives no order). Where no bundle follows, SRIDX advances at once. -/
def finishRecovery (p : Nat) (h : Header) (pc : Word) (merged : Bool) (s : State) : State :=
  s.onCore p fun c =>
    { c with
      srUsed := if merged then c.srUsed else 0
      callQ := none
      turnAt := s.cyc.toNat + 1
      issued := c.issued + bit (!c.yieldWaits)
      merged := merged
      work := { c.work with
        lastPc := c.work.pc
        lastSpace := c.work.space
        pc := pc
        recov := none
        flags := c.clearedFlags s.cyc.toNat h
        sridx := if merged then c.work.sridx else c.work.sridx + BitVec.ofNat 64 (64 * c.srUsed) } }

/-- The recovery bundle stands before a return or the kernel's end: no bundle follows at its pc, and it issues on its own. -/
def lastRecovery (s : State) (c : Core) : Bool :=
  c.work.recov.isSome && decide (c.run = .running) && c.sync.isNone && c.saveKind.isNone && !c.restarting &&
    !(c.comp.isSome && !c.work.frames.any (·.inserted)) && (atReturn s c || atEnd s c)

/-- The bundle at `a` issues as the recovery bundle, once its own waits and holds let it. Where it waits for its flags and something waits for a mark, one is placed, as before any bundle held on WAIT (R107, R119, R248). -/
def recoverAt (p : Nat) (a : Word) (merged : Bool) (s : State) : State :=
  let c := s.core p
  match fetchAt s c a c.work.space with
  | none => trapAtIssue p causeSegv 2 a c.work.lastPc c.work.lastSpace s
  | some b =>
    let v := s.landed p
    let q := compare v (v.core p) a c.work.space b
    let hold (n : Nat) (s : State) : State := s.onCore p fun c => { c with turnAt := s.cyc.toNat + n }
    match if c.skipsBreak then none else q.2 with
    | some n => breakRecovery p n q.1 a s
    | none =>
      if !c.flagsReady s.cyc.toNat (headerOf b).wait then
        if !c.atMark && !c.sup && (c.softDue || insertWaits s p) && !c.markBlocked s.cyc.toNat then hold 1 (placeMark p s) else hold 1 s
      else match issueCheck c.sup true b with
        | some (cause, info) => trapAtIssue p cause 0 info a c.work.space s
        | none =>
          let tile := tileMark (v.core p) b && !c.atMark
          if tile && c.markBlocked s.cyc.toNat then hold 1 s
          else
            let s := if tile then placeMark p s else s
            let n := holdCycles (s.landed p) p b
            if 0 < n.1 then hold n.1 (if n.2 then s.onCore p fun k => k.hastenCall ((s.landed p).core p).work.queue else s)
            else
              let cs := hitsAt s p a b
              issueWith p b (fun c => { c with work := { c.work with comps := cs, pc := a } })
                (finishRecovery p (headerOf b) c.work.pc merged) s

/-- RECOVERY_BUNDLE (R162): once the marks and holds of the bundle it merges into let it. -/
def recoveryStep (p : Nat) (s : State) : State :=
  if lastRecovery s (s.core p) then
    let s := s.until ((s.core p).turn s.cyc.toNat)
    let c := s.core p
    match c.work.recov with
    | none => s
    | some a =>
      if c.dataHeld s.cyc.toNat || c.resultsWait || heldAtMark s p then s.onCore p fun c => { c with turnAt := s.cyc.toNat + 1 }
      else recoverAt p a false s
  else match ready p s with
    | .none => s
    | .held s => s
    | .go _ s => match (s.core p).work.recov with
      | none => s
      | some a => recoverAt p a true s

def execRecoveryBundle (p : Nat) (s : State) : Outcome State Fault Refusal := .next (recoveryStep p s)

/-! ### OPAR -/

/-- No freeze and no interlock hold stands, and the core's running OPAR has a repetition due (R212). -/
def repetitionDue (s : State) (p : Nat) : Bool :=
  let c := s.core p
  c.work.opar.isSome && decide (c.repAt ≤ s.cyc.toNat) && decide (c.run = .running) && c.sync.isNone && c.saveKind.isNone &&
    !c.restarting && !c.dataHeld s.cyc.toNat && !(c.atMark && wantsStop s p) && (c.comp.isNone || c.work.frames.any (·.inserted))

/-- One repetition of an OPAR, captured as the bundle due would read it (R212); none where what it captures is poisoned. -/
def oparRepeat (p : Nat) (o : OparRep) (s : State) : Option State :=
  let c := s.core p
  let seen := { c.land c.work.bno with lx := true, lit := o.lit }
  let a := BitVec.ofNat 6 o.col
  if seen.vPoison a then none
  else
    let s := queueOp p (.opa o.tile o.fmt.toNat o.high (seen.srcV a) (coreLoc p o.next.toNat) c.work.pc c.work.space) s
    some (s.onCore p fun c =>
      { c with work := { c.work with opar := some { o with remaining := o.remaining - 1, next := o.next + 128 } } })

/-- OPAR_REPETITION (R103, R212). The repetition captures v[A] as the bundle due would read it; a poisoned one traps there. -/
def oparStep (p : Nat) (s : State) : State :=
  let c := s.core p
  let later (c : Core) : Core := { c with repAt := s.cyc.toNat + 1 }
  match c.work.opar with
  | none => s
  | some o =>
    if !repetitionDue s p then s
    else if o.remaining = 0 then s.setCore p { c with work := c.work.finishOpar c.work.bno }
    else match oparRepeat p o s with
    | none => trapAtIssue p causePoison 0 (slotInfo 4 0) c.work.pc c.work.space s
    | some t =>
      if decide (128 ≤ c.seg.opas.length) && c.markBlocked s.cyc.toNat then s.setCore p (later c)
      else
        let t := if 128 ≤ c.seg.opas.length then (oparRepeat p o (placeMark p s)).getD s else t
        t.onCore p later

def execOparRepetition (p : Nat) (s : State) : Outcome State Fault Refusal := .next (oparStep p s)

/-! ### Arrivals -/

/-- The load's value read again, as its bank gives it when the wait ends (R128, R310): bytes that it keeps come first (R127, R130, R131), and where its segment has committed it is what stood there then (R139). Poison of a speculative load is a zero in every lane (R184, R196). -/
def rereadLoad (s : State) (p : Nat) (q : Pending) (l : LoadInfo) : Pending :=
  let older (loc : Nat) : Option Byte := (s.core p).cask.foldl (fun acc e =>
    if e.bno < q.bno then match lastByte e.bytes loc with
      | some b => some b
      | none => acc
    else acc) none
  let byte (loc : Nat) : Option Byte := ((l.kept.find? fun k => decide (k.1 = loc)).map (·.2)).or (older loc)
  let seen (loc : Nat) : Byte := ((l.seen.find? fun k => decide (k.1 = loc)).map (·.2)).getD (s.readByte loc)
  let raw := l.bytes.foldl (fun v (loc, pos) => v ||| (((byte loc).getD (seen loc)).toNat <<< pos)) 0
  let lost (loc : Nat) : Bool := (byte loc).isNone && s.isPoisoned loc
  let bad := l.bytes.any fun b => lost b.1
  { q with
    value := BitVec.ofNat 2048 raw
    poison := q.poison || (bad && l.spec)
    mask := if bad && l.spec then allOnes64 else q.mask
    load := some { l with uncorrectable := bad && !l.spec, badLane := firstBadLane l.form lost l.bytes } }

/-- A load of core `p` in flight, by its number: the working copy's, else one that only an older copy still awaits. -/
def owedLoad (c : Core) (id : Nat) : Option Pending :=
  (c.work.pend ++ c.mark.pend ++ c.com.pend).find? fun q => decide (q.id = id) && match q.load with
    | some l => !l.arrived
    | none => false

/-- LOAD_ARRIVAL (R97, R98): the data is there, in every copy that awaits it, once what the load waits for at its bank is over and older loads there have been performed (R128, R131); only the own SRAM has a latency of its own to wait for besides (R104, R251). Uncorrectable data is consumed (R108, R116). -/
def arrivalStep (p id : Nat) (s : State) : State :=
  let c := s.core p
  match owedLoad c id with
  | none => s
  | some q => match q.load with
    | none => s
    | some l =>
      if !l.after.isEmpty || l.bytes.any (fun (a, _) => s.scrubs a) || c.loadsBefore p l.cls (l.bytes.map (·.1)) q.bno then s
      else
        let q' := if l.reread then rereadLoad s p q l else q
        let bad := match q'.load with
          | some l => l.uncorrectable
          | none => false
        if bad then consume s p q.bno l.pc l.space q.slot ((q'.load.map (·.badLane)).getD 0)
        else
          let same (a : Pending) : Bool := decide (a.id = id) && decide (a.bno = q.bno) && decide (a.dest = q.dest)
          let here : Option LoadInfo := q'.load.map fun l =>
            { l with arrived := true, readyAt := if l.bytes.all fun (a, _) => isOwnSram p a then l.readyAt else Nat.min l.readyAt s.cyc.toNat }
          let put (a : Pending) : Pending := { a with value := q'.value, poison := q'.poison, mask := q'.mask, load := here }
          let land (r : Regs) : Regs := { r with pend := r.pend.map fun a => if same a then put a else a }
          flushCore p (s.setCore p { c with work := land c.work, mark := land c.mark, com := land c.com })

def execLoadArrival (p id : Nat) (s : State) : Outcome State Fault Refusal := .next (arrivalStep p id s)

/-! ### Commit -/

/-- The queue entries of a segment's tile operations and of its stores to the own B-plane: by bundle, an OPA before the stores of its bundle (R130, R210). -/
def tileQueue (p : Nat) (g : Segment) : List (Nat × TileOp) :=
  let own := g.stores.filter fun e => e.bytes.any fun (a, _) => isOwnBplane p a
  let rec merge : List (Nat × TileOp) → List CaskEntry → List (Nat × TileOp)
    | ops, [] => ops
    | ops, e :: es => (ops.takeWhile fun o => decide (o.1 ≤ e.bno)) ++ (e.bno, .store e) :: merge (ops.dropWhile fun o => decide (o.1 ≤ e.bno)) es
  merge g.opas own

/-- When other agents see a store that is published now (R132, R134): one to the core's own SRAM at once; any other, which DRAIN and barriers alone order, after as many cycles as the run chooses (DESIGN CHOICE, log 78). -/
def visibleAt (p now n : Nat) (e : CaskEntry) : Nat :=
  if e.bytes.all fun (a, _) => isOwnSram p a then now else now + Config.freeChoice n % 65536

/-- The segment's stores are published in issue order (R109); one that waits at its bank, or on its way (R132), and a later store that it shares a byte with, is performed later (R128). Those to the own B-plane take their places among the press's entries (R210). Which agent sees a store when is left to the run (DESIGN CHOICE, log 78: R132 gives no order). -/
def publishStores (p : Nat) (g : Segment) (s : State) : State :=
  let c := s.core p
  let outside := (g.stores.filter fun e => !e.bytes.any fun (a, _) => isOwnBplane p a).zipIdx.map fun (e, k) =>
    { e with visAt := visibleAt p s.cyc.toNat (s.free + k) e }
  { s.setCore p { c with heldStores := c.heldStores ++ outside, opaq := c.opaq ++ tileQueue p g } with
    free := s.free + outside.length }

/-- The ACTEs of a core whose activity has ended answer (R175). -/
def answerWaits (p : Nat) (s : State) : State :=
  let c := s.core p
  (c.value ++ c.heldValue).foldl (fun s v => match v.op with
    | .acte _ act =>
      let n := actCode s c.ctx.toNat act
      if decide (n = 0) || decide (4 ≤ n) then sendBack p v.vid 0 (BitVec.ofNat 64 n) 0 s else s
    | _ => s) s

/-- Whether a value has come back for an operation. -/
def Core.hasBack (c : Core) (vid : Nat) : Bool := c.valueBack.any fun b => decide (b.1 = vid)

/-- Every ACTE whose activity has ended answers, before its id can be given to another one or its state changes (R175, R176, R248). -/
def answerAll (s : State) : State := s.cores.foldl (fun s e => answerWaits e.1 s) s

/-- An ACTB of core `p` reads its gate and begins the activity (R176); a gate whose row waits for its scrub makes it wait, uncorrectable data is consumed (R310). -/
def beginHeld (p : Nat) (s : State) (v : ValueReq) : State :=
  match v.op with
  | .actb _ loc =>
    if (s.core p).hasBack v.vid || s.scrubs loc then s
    else if s.isPoisoned loc then (if (s.core p).restarting then s else consumeValue p v.vid 0 s)
    else
      let r := actBegin (answerAll s) p loc
      sendBack p v.vid 0 r.2 0 r.1
  | _ => s

/-- The ACTBs of a core that wait no longer. -/
def beginWaits (p : Nat) (s : State) : State := ((s.core p).value ++ (s.core p).heldValue).foldl (beginHeld p) s

/-- A request of core `p` under the next sequence number of agent `agent`: the core, or a native unit of its cluster (R143). -/
def sendAtomic (agent p vid lane : Nat) (op : AtomOp) (loc width : Nat) (bf16 : Bool) (operand cmp : Word) (after : List Nat) (s : State) : State :=
  let q := takeSeq agent s
  { q.2 with
    reqs := Store.put s.reqs s.nextReq ⟨[⟨agent, p, q.1, vid, lane, operand⟩], op, loc, width, bf16, cmp, after, s.cyc.toNat, false⟩
    nextReq := s.nextReq + 1 }

/-- A value operation is performed at its segment's commit (R113, R153): what it asks outside the core is sent in the name of `agent`, what is known at once comes back. A WAITB sees what its core has stored (R131). -/
def performValue (agent p : Nat) (v : ValueReq) (s : State) : State :=
  let vid := s.nextVal
  let s := { (s.onCore p fun c => { c with value := c.value ++ [{ v with vid := vid }] }) with nextVal := vid + 1 }
  match v.op with
  | .amo _ op loc width bf16 operand cmp => sendAtomic agent p vid 0 op loc width bf16 operand cmp v.after s
  | .vamo _ op _ lanes =>
    lanes.foldl (fun s (l, loc, _, d) => sendAtomic agent p vid l op loc 4 false d 0 v.after s) s
  | .barr _ loc => sendAtomic agent p vid 0 .arrive loc 8 false 0 0 [] s
  | .waitb _ loc phase timeout =>
    let q := takeSeq agent (settleStores p s)
    { q.2 with waits := q.2.waits ++ [⟨p, loc, phase, s.cyc.toNat + timeout, vid, agent, q.1⟩] }
  | .actb _ _ => beginHeld p (settleStores p s) { v with vid := vid }
  | .acte _ act => actEnd s p act
  | .acts _ act => sendBack p vid 0 (BitVec.ofNat 64 (actCode s (s.core p).ctx.toNat act)) 0 s

/-- The arbitration group of a core's cluster. -/
def groupOf (s : State) (p : Nat) : Option (Nat × Group) := List.find? (fun q => q.2.clusters.contains (p / 8)) s.groups

/-- A YIELD commits (R166): the core's stated run begins, an overrun of the last one keeps its count (R284); the first core of the placement to commit its k-th YIELD asks for a decision (R282). -/
def yieldCommit (p v : Nat) (s : State) : State :=
  let s := s.onCore p fun c => { c with stated := v, issued := 0, overAt := 0, overran := c.overran.map (Nat.max c.issued), yields := c.yields + 1 }
  match groupOf s p with
  | none => s
  | some (n, g) =>
    let k := (s.core p).yields
    if g.yields < k then { s with groups := Store.put s.groups n { g with yields := k, asked := some v, lead := p } } else s

/-- BREL at commit (R165): the release waits for the engine writes that address the banks. -/
def brelCommit (p : Nat) (mask : BitVec 32) (s : State) : State :=
  let c := s.core p
  let mask := mask &&& c.bown
  let banks := maskBanks p mask
  let ops := (s.ops.filterMap fun (k, o) =>
    if decide (o.core = p) && o.cmd.writesBank o.origin.1 banks then some k else none) ++ c.grafts.map fun (k, _) => graftTag k
  s.setCore p (flushBrels { c with brels := c.brels ++ [(mask, ops)] } p)

/-- A grafted call is released (R29). -/
def releaseGraft (p : Nat) (g : GraftCall) (s : State) : State :=
  { (s.onCore p fun c => { c with grafts := Store.put c.grafts s.nextOp ⟨g, false, false, s.cyc.toNat, g.entry, false, false, false⟩ }) with nextOp := s.nextOp + 1 }

/-- What one effect does at its segment's commit (R109). -/
def performEffect (p : Nat) (s : State) (e : Effect) : State :=
  match e with
  | .push idx tag act params => actPush s p idx tag act params
  | .acta act => actAbandon s p act
  | .command c => releaseCommand p c s
  | .graft g => releaseGraft p g s
  | .value v => performValue p p v s
  | .kick q => { s with kicks := s.kicks ||| (1#4096 <<< q) }
  | .brel mask => brelCommit p mask s
  | .yield v => yieldCommit p v s
  | .halt => s.onCore p fun c => { c with run := .halted }
  | .sret pc space => returnFromTrap s p pc space

/-- Whether an effect goes to the solera with the pushes (R109, R138). -/
def Effect.pushes : Effect → Bool
  | .push _ _ _ _ | .acta _ => true
  | _ => false

/-- Whether an effect is a return from an exception. -/
def Effect.returns : Effect → Bool
  | .sret _ _ => true
  | _ => false

/-- The effects of a segment in the order in which its commit performs them: the pushes first (R109), a return from an exception after everything else of its segment (R262). -/
def Segment.inOrder (g : Segment) : List Effect :=
  g.effects.filter Effect.pushes ++ g.effects.filter (fun e => !e.pushes && !e.returns) ++ g.effects.filter Effect.returns

/-- The conditions of R108 on the closed segment. -/
def commitReady (s : State) (p : Nat) (g : Segment) : Bool :=
  let c := s.core p
  decide (g.closedAt + Config.commitDelay ≤ s.cyc.toNat) && g.checks.isEmpty && g.bad.isNone && !c.restarting && !leadWaits s p

/-- Single-step: BREAK after a segment has committed, before the next bundle (R270). -/
def stepBreak (p : Nat) (s : State) : State :=
  let c := s.core p
  let t : TrapRec := ⟨causeBreak, 7, c.com.pc, c.com.space, 8⟩
  if c.trapsNow then trapNow s p false t else s.onCore p fun c => { c with sync := some t }

/-- SEGMENT_COMMIT (R108 to R110, R115). What its loads that wait at their banks read is settled before (R139). The first commit after a resumption ends BSKIP (R269, log 77). -/
def commitStep (p : Nat) (s : State) : State :=
  let c := s.core p
  match c.pending with
  | none => s
  | some g =>
    if !commitReady s p g then s
    else
      let step := c.sstep && !c.sup && decide (c.run = .running)
      let s := s.setCore p { c with
        com := c.mark
        pending := none
        rolls := 0
        failRec := none
        comAt := s.cyc.toNat + 1
        bskip := c.bskip && decide (c.mark.bno = c.com.bno) }
      let s := publishStores p g (settleLoads p c.mark.bno s)
      let s := g.inOrder.foldl (performEffect p) s
      let s := checkGates (flushCore p s)
      if step && (s.core p).sync.isNone then stepBreak p s else s

def execSegmentCommit (p : Nat) (s : State) : Outcome State Fault Refusal := .next (commitStep p s)

/-! ### Values -/

/-- The answers that have come back for an operation. -/
def Core.answers (c : Core) (v : ValueReq) : List (Nat × Word × BitVec 6) :=
  (c.valueBack.filter fun b => decide (b.1 = v.vid)).map (·.2)

/-- Whether every answer of an operation is there. -/
def Core.answered (c : Core) (v : ValueReq) : Bool :=
  let n := match v.op with
    | .vamo _ _ _ lanes => lanes.length
    | _ => 1
  decide ((c.answers v).length = n)

/-- The vector register, or the scale register, that a VAMO destination names (R205). -/
def vamoDest (d : Nat) : Option Dest := if d ≤ 47 then some (.vector d) else if d ≤ 55 then some (.scale (d - 48)) else none

/-- The writes of an operation's value: each lands at the held bundle (R113). -/
def Core.valueWrites (c : Core) (v : ValueReq) (r : Regs) : Regs :=
  let ans := c.answers v
  let st := ans.foldl (fun b a => b ||| a.2.2) 0
  let add (r : Regs) (dest : Dest) (value : Vec) (mask : Word) : Regs :=
    { r with pend := r.pend ++ [⟨r.nextId, r.bno, r.bno - 1, v.slot, dest, value, mask, false, none, st, 0, none, 0⟩] }
  let scalar (d : Nat) : Regs :=
    add r (if d = 0 then .nothing else .scalar d) (match ans with
      | a :: _ => a.2.1.setWidth 2048
      | [] => 0) allOnes64
  match v.op with
  | .amo d _ _ _ _ _ _ | .barr d _ | .waitb d _ _ _ | .actb d _ | .acte d _ | .acts d _ => scalar d
  | .vamo d _ _ lanes =>
    let value := BitVec.ofNat 2048 (packElems 32 ((List.range 64).map fun l =>
      match ans.find? fun a => decide (a.1 = l) with
      | some a => a.2.1.toNat
      | none => 0))
    let mask := maskOf fun l => lanes.any fun q => decide (q.1 = l)
    let put (r : Regs) (d : Nat) : Regs := match vamoDest d with
      | some (.scale n) => add r (.scale n) value (laneToByteMask mask)
      | some dest => add r dest value mask
      | none => add r .nothing 0 allOnes64
    let r := put r d
    match v.twin with
    | some d' => put r d'
    | none => r

/-- A WAITB of the core ends as this cycle does: its home evaluates it in each cycle (R147). -/
def waitDue (s : State) (p : Nat) : Bool :=
  s.waits.any fun w => decide (w.core = p) && ((waitCode s w).isSome || decide (w.deadline ≤ s.cyc.toNat))

/-- VALUE_RETURN (R113, R153): what has come back for the held bundle enters all three copies; a WAITB's answer comes with the end of its cycle. While an inserted call runs, the interrupted code's values wait for its end (R248). -/
def valueStep (p : Nat) (s : State) : State :=
  let c0 := s.core p
  let s := beginWaits p (answerWaits p s)
  if c0.comp.isSome && !c0.work.frames.any (·.inserted) then s
  else
    let s := if !(s.core p).value.any (s.core p).answered && waitDue s p then s.until (s.cyc.toNat + 1) else s
    let c := s.core p
    let done := c.value.filter c.answered
    if done.isEmpty then s
    else
      let land (r : Regs) : Regs := done.foldl (fun r v => c.valueWrites v r) r
      let gone (b : Nat × Nat × Word × BitVec 6) : Bool := done.any fun v => decide (v.vid = b.1)
      let s := s.setCore p { c with
        work := land c.work
        mark := land c.mark
        com := land c.com
        value := c.value.filter fun v => !c.answered v
        valueBack := c.valueBack.filter fun b => !gone b
        turnAt := Nat.min c.turnAt s.cyc.toNat }
      { s with reqs := s.reqs.filter fun (_, r) => !(r.applied && r.parts.all fun q => done.any fun v => decide (v.vid = q.vid)) }

def execValueReturn (p : Nat) (s : State) : Outcome State Fault Refusal := .next (valueStep p s)

/-- WAITB_TIMEOUT (R147): the cycle of the timeout ends, and the tests are made in their order. -/
def timeoutStep (p : Nat) (s : State) : State :=
  if s.waits.any fun w => decide (w.core = p) && decide (w.deadline ≤ s.cyc.toNat) then s.until (s.cyc.toNat + 1) else s

def execWaitbTimeout (p : Nat) (s : State) : Outcome State Fault Refusal := .next (timeoutStep p s)

/-! ### The press's queue -/

/-- A check failure to be counted D cycles later: histogram entries, from 2^16 on die counters, from 2^20 on native units (R319). -/
def defer (p : Nat) (entries : List Nat) (s : State) : State :=
  { s with deferred := s.deferred ++ [⟨s.cyc.toNat + Config.commitDelay, s.cyc.toNat, p, entries, false⟩] }

/-- A die counter among deferred entries, and a native unit of the die. -/
def lifeEntry (k : Nat) : Nat := 2 ^ 16 + k
def unitEntry (u : Nat) : Nat := 2 ^ 20 + u

/-- The press meets uncorrectable data in the row of the entry at its head (R310): its bundle consumes it, and an entry whose data stays uncorrectable is dropped as the trap is raised (log 73). -/
def dropBadEntry (p bno : Nat) (pc : Word) (space : Bool) (s : State) : State :=
  let again := decide ((s.core p).badRec = some (pc, space))
  (consume s p bno pc space 4 0).onCore p fun c => if again then { c with opaq := c.opaq.drop 1 } else c

/-- What follows where the witness of core `p` finds `n` disagreements at the entry applied last, in column `w`: counts, and at the second one it stands in for the column (R316, R317, R319). -/
def witnessFinds (p w n : Nat) (s : State) : State :=
  let n := if (s.core p).standIn.isSome then 0 else Nat.min n 2
  let s := if n = 0 then s else (List.range n).foldl (fun s _ => defer p [histColumn w, lifeEntry 4] s) s
  if n = 2 then
    let l := s.lifeOf (dieOf p)
    countLife { (s.onCore p fun c => { c with standIn := some w }) with
      life := Store.put s.life (dieOf p) { l with standIn := Store.put l.standIn (p % 160) (1 + w) } } (dieOf p) 15 1
  else s

/-- OPA_ENTRY_APPLY (R112, R316, R317): the press applies its next entry; the witness finds `disagreements` in its column. -/
def applyStep (p disagreements : Nat) (s : State) : State :=
  let c := s.core p
  match c.opaq with
  | [] => s
  | (_, .store _) :: _ => flushHead p s
  | (bno, o) :: l =>
    if decide (s.cyc.toNat < c.pressAt) || (decide (c.run = .running) && c.frozen s.cyc.toNat) || o.scrubHeld s then s
    else match o.bad s with
    | some (pc, space) => if c.restarting then s else dropBadEntry p bno pc space s
    | none =>
      let n := if c.standIn.isSome then 0 else Nat.min disagreements 2
      let w := c.applied % 64
      let s := applyOp (s.setCore p { c with opaq := l }) p o
      let s := s.onCore p fun c =>
        { c with
          applied := c.applied + 1
          pressAt := s.cyc.toNat + 1 + (if n = 0 then 0 else 2) }
      flushHead p (witnessFinds p w n s)

def execOpaEntryApply (p disagreements : Nat) (s : State) : Outcome State Fault Refusal := .next (applyStep p disagreements s)

/-! ### Checks -/

/-- The first check of the given kinds whose outcome is known (R117). -/
def dueCheck (s : State) (c : Core) (kinds : List CheckKind) : Option Check :=
  ((match c.pending with
    | some g => g.checks
    | none => []) ++ c.seg.checks).find? fun k => kinds.contains k.kind && decide (k.due ≤ s.cyc.toNat)

/-- The check has agreed. -/
def passCheck (p : Nat) (k : Check) (s : State) : State :=
  s.onCore p fun c =>
    let drop (g : Segment) : Segment := { g with checks := g.checks.erase k }
    match c.pending with
    | some g => if g.checks.contains k then { c with pending := some (drop g) } else { c with seg := drop c.seg }
    | none => { c with seg := drop c.seg }

/-- The slot that a check stands in. -/
def CheckKind.slot : CheckKind → Nat
  | .cmpt => 7
  | .atomicPair => 3
  | .residue | .witness => 4

/-- The die counter of a failed check, where Table 18.4 has one. -/
def CheckKind.counter : CheckKind → List Nat
  | .witness => [lifeEntry 4]
  | .residue => [lifeEntry 5]
  | .cmpt | .atomicPair => []

/-- MISMATCH at the bundle of a check that failed twice: its segment is discarded, older ones have committed or commit first (R117, R259). -/
def mismatch (p : Nat) (k : Check) (s : State) : State :=
  let t : TrapRec := ⟨causeMismatch, 0, k.pc, k.space, slotInfo k.kind.slot 0⟩
  let inPending (c : Core) : Bool := match c.pending with
    | some g => g.checks.contains k
    | none => false
  let s := countLife s (dieOf p) 3 1
  let s := s.onCore p fun c => if inPending c then { c.discard with repAt := Nat.max c.repAt s.cyc.toNat } else
    { c with seg := { c.seg with checks := c.seg.checks.erase k } }
  if (s.core p).trapsNow then trapNow s p false t else s.onCore p fun c => { c with sync := some t }

/-- The outcome of a check becomes known (R108, R117, R319): a failure is counted; it rolls the core back, and the second one at one bundle traps. -/
def outcome (p : Nat) (k : Check) (fails : Bool) (s : State) : State :=
  if !fails then passCheck p k s
  else
    let s := defer p (k.hist ++ k.kind.counter) s
    if (s.core p).failRec = some (k.pc, k.space) then mismatch p k s
    else (rollback s p).onCore p fun c => { c with failRec := some (k.pc, k.space) }

/-- The check of the core whose outcome becomes known. A trap that is held delays none, and a rollback comes before it (R117, R259, R260). -/
def knownCheck (s : State) (p : Nat) (kinds : List CheckKind) : Option Check := dueCheck s (s.core p) kinds

/-- CMPT_OUTCOME: of a CMPT or of two copies of an atomic (R113, R117, R181). -/
def cmptStep (p : Nat) (s : State) : State :=
  match knownCheck s p [.cmpt, .atomicPair] with
  | some k => outcome p k k.fails s
  | none => s

def execCmptOutcome (p : Nat) (s : State) : Outcome State Fault Refusal := .next (cmptStep p s)

/-- RESIDUE_CHECK (R63, R216, R318). -/
def residueStep (p : Nat) (s : State) : State :=
  match knownCheck s p [.residue] with
  | some k => outcome p k k.fails s
  | none => s

def execResidueCheck (p : Nat) (s : State) : Outcome State Fault Refusal := .next (residueStep p s)

/-- WITNESS_READ_CHECK (R315): whether the witness agrees comes from the part itself. -/
def witnessStep (p : Nat) (agrees : Bool) (s : State) : State :=
  match knownCheck s p [.witness] with
  | some k => outcome p k (!agrees) s
  | none => s

def execWitnessReadCheck (p : Nat) (agrees : Bool) (s : State) : Outcome State Fault Refusal := .next (witnessStep p agrees s)

/-! ### Strikes and rollbacks -/

/-- A core whose task runs: something of it can roll back. -/
def Core.active (c : Core) : Bool := decide (c.run = .running) || decide (c.run = .ending)

/-- Whether an uncommitted segment has touched a tun bank group (R116). -/
def Core.touched (c : Core) (g : Nat × Nat) : Bool :=
  c.seg.tun.contains g || match c.pending with
    | some q => q.tun.contains g
    | none => false

/-- The cores that a reported region rolls back (Table 18.1). -/
def struckCores (s : State) (r : Region) : List Nat :=
  match r with
  | .core p => if (s.core p).active then [p] else []
  | .tunGroup c g => s.cores.filterMap fun (p, k) => if k.active && k.touched (c, g) then some p else none
  | .cellarGroup _ _ | .egress _ => []

/-- The die of a region. -/
def regionDie : Region → Nat
  | .core p => dieOf p
  | .tunGroup c _ => c / 20
  | .cellarGroup d _ => d
  | .egress d => d

/-- Whether a region has SRAM rows that a scrub visits (R310). -/
def scrubbed : Region → Bool
  | .egress _ => false
  | _ => true

/-- A report poisons the packets it reaches in cycles r to r + D; the rows that they came from are scrubbed (R314). -/
def poisonPackets (rs : List Region) (s : State) : State :=
  let hit (e : Nat) (q : Packet) : Bool :=
    !q.poisoned && decide (s.cyc.toNat ≤ q.readAt + Config.commitDelay) &&
      (q.regions.any rs.contains || rs.contains (.egress (endpointDie e)))
  let n (d : Nat) : Nat := s.quarantine.foldl (fun k (e, l) => if endpointDie e = d then k + l.countP (hit e) else k) 0
  let rows := s.quarantine.flatMap fun (e, l) => (l.filter (hit e)).flatMap (·.regions)
  let s' := { s with
    quarantine := s.quarantine.map fun (e, l) => (e, l.map fun q => if hit e q then { q with poisoned := true } else q)
    scrubbing := s.scrubbing ++ (rows.filter fun r => scrubbed r && !s.scrubbing.contains r).eraseDups }
  (List.range 4).foldl (fun s d => countLife s d 11 (n d)) s'

/-- D counts anew for the grafts in the unit regions of a core (R32). -/
def recount (p : Nat) (s : State) : State :=
  s.onCore p fun c => { c with grafts := c.grafts.map fun (k, g) => (k, { g with since := s.cyc.toNat }) }

/-- STRIKE_REPORT (R308 to R314, R319): rollbacks, scrubs, poisoned packets, check failures that the strike explains, press cells lost. A report of a cycle is acted on before a commit of that cycle, and a packet it reaches does not leave in that cycle: where a core has committed or a packet has left, the report is one of the next cycle (R309, R314). -/
def strikeStep (rs : List Region) (lost : List (Nat × Nat × Nat)) (s : State) : State :=
  let late := decide (s.leftAt = s.cyc.toNat + 1) || s.cores.any fun (_, c) => decide (c.comAt = s.cyc.toNat + 1)
  let s := if late then s.until (s.cyc.toNat + 1) else s
  let s := ((rs.map regionDie).eraseDups).foldl (fun s d => countLife s d 0 1) s
  let s := ((rs.flatMap (struckCores s)).eraseDups).foldl rollback s
  let s := rs.foldl (fun s r => match r with
    | .core p => recount p s
    | _ => s) s
  let s := { s with scrubbing := s.scrubbing ++ (rs.filter fun r => scrubbed r && !s.scrubbing.contains r).eraseDups }
  let s := poisonPackets rs s
  let explained (d : Deferred) : Bool := rs.contains (.core d.core) && decide (s.cyc.toNat ≤ d.due)
  let s := { s with deferred := s.deferred.map fun d => if explained d then { d with strike := true } else d }
  lost.foldl (fun s (p, t, k) => s.onCore p fun c =>
    let z := c.tile t
    { c with tiles := Store.put c.tiles t { z with lost := (z.lost ++ [k]).eraseDups } }) s

def execStrikeReport (regions : List Region) (lost : List (Nat × Nat × Nat)) (s : State) : Outcome State Fault Refusal :=
  .next (strikeStep regions lost s)

/-- ROLLBACK_RESTART (R116, R312): 8 cycles after the cause, with a good committed copy, the first bundle issues again; a bad one stops the core, and the scheduler then kills its context. -/
def restartStep (p : Nat) (good : Bool) (s : State) : State :=
  let c := s.core p
  if !c.restarting || decide (s.cyc.toNat < c.holdUntil) then s
  else
    let s := s.setCore p { c with restarting := false }
    if good then issueStep p s
    else
      let s := countLife (stopCore s p ⟨causeUncorrectable, 0, c.com.pc, c.com.space, 0⟩) (dieOf p) 14 1
      { s with agenda := s.agenda ++ [.kill (.package, c.ctx.toNat)] }

def execRollbackRestart (p : Nat) (good : Bool) (s : State) : Outcome State Fault Refusal := .next (restartStep p good s)

/-! ### Traps -/

/-- TRAP_ENTRY (R259): the held trap is taken once every older segment has committed and what a save waits for has come. -/
def trapStep (p : Nat) (s : State) : State :=
  let c := s.core p
  match c.sync with
  | none => s
  | some t =>
    if c.trapsNow && c.saveKind.isNone && !c.restarting then match c.breakNow with
      | some cs => breakTaken p cs t s
      | none => trapNow s p false t
    else s

def execTrapEntry (p : Nat) (s : State) : Outcome State Fault Refusal := .next (trapStep p s)

/-- ASYNC_REPORT (R259, R260): the oldest report is delivered at a mark with every segment committed, after a breakpoint or a trap of the bundle there; the others stay pending. -/
def reportStep (p : Nat) (s : State) : State :=
  let c := s.core p
  match c.async with
  | [] => s
  | t :: l =>
    if c.active && !c.sup && c.sync.isNone && c.saveKind.isNone && !c.restarting && c.atMark && c.trapsNow && !stopsFirst s p then
      let t := if t.sub = 5 then { t with pc := c.com.pc, space := c.com.space } else t
      takeTrap (s.setCore p { c with async := l }) p false t
    else s

def execAsyncReport (p : Nat) (s : State) : Outcome State Fault Refusal := .next (reportStep p s)

end Sys2Proof.Machine
end

