-- ==== Sys2Proof/Machine/GraftEvents.lean ====
section
/-! DEFINITION. Routines in progress: the return of a body, grafted calls from their start to their end, inserted calls (R28, R29, R31, R32, R35, R36, R178, R248). -/

namespace Sys2Proof.Machine

open Host (Outcome)

/-! ### Returns -/

/-- Something of the body is still outstanding at its end: an OPAR, a command or call bound to one of its flags (R28). -/
def bodyOutstanding (s : State) (p : Nat) : Bool :=
  (s.core p).work.opar.isSome || (List.range 16).any fun n => flagBound s p n

/-- The body of the innermost call is left; after an inserted call a mark closes its segments (R248). -/
def leaveCall (p : Nat) (s : State) : State :=
  let inserted := match (s.core p).work.frames with
    | f :: _ => f.inserted
    | [] => false
  s.onCore p fun c =>
    let c := c.landAll
    let c := { c with work := c.work.leaveBody }
    if inserted then { c.closeSeg s.cyc.toNat with markAfter := false } else c

/-- ROUTINE_RETURN (R28). The hold counts cycles, in which what is pending lands (R27). -/
def returnStep (p : Nat) (s : State) : State :=
  let c := s.core p
  let inserted := match c.work.frames with
    | f :: _ => f.inserted
    | [] => false
  if !(decide (c.run = .running) && c.sync.isNone && c.saveKind.isNone && !c.restarting && c.work.recov.isNone && atReturn s c) then s
  else
    let s := s.until (c.turn s.cyc.toNat)
    let hold (n : Nat) (f : Core → Core) : State := s.onCore p fun c => { f c with turnAt := s.cyc.toNat + n }
    if c.markAfter && !c.atMark then (if c.markBlocked s.cyc.toNat then hold 1 id else placeMark p s)
    else if c.resultsWait || c.loadsOut s.cyc.toNat || bodyOutstanding s p then hold 1 id
    else if c.atMark && wantsStop s p then hold 1 id
    else if 0 < c.ahead s.cyc.toNat then hold (c.ahead s.cyc.toNat) Core.hasten
    else if inserted && c.markBlocked s.cyc.toNat then hold 1 id
    else leaveCall p s

def execRoutineReturn (p : Nat) (s : State) : Outcome State Fault Refusal := .next (returnStep p s)

/-! ### Native runs

A native unit's results are the body's (R32). The model runs the body on a private copy of the core in which every segment commits at once and every command completes at once. -/

/-- The private core that runs a graft from the state of its body; of the calls of the core it knows the older ones. A single-stepping core grafts no call (R37): a call within runs as a body. -/
def nativeCore (c : Core) (id : Nat) (r : Regs) : Core :=
  { c with
    work := r
    mark := r
    com := r
    run := .running
    seg := Segment.opened r.pc true
    pending := none
    opaq := []
    heldStores := []
    value := []
    heldValue := []
    valueBack := []
    grafts := c.grafts.filter fun (k, _) => decide (k < id)
    inserts := []
    comp := none
    async := []
    sync := none
    preempt := .none
    saveKind := none
    hzd := false
    sstep := true
    bke := false
    sup := false
    standIn := some 0
    srUsed := 0
    enter := none
    skipTo := none
    markAfter := false
    merged := false
    bskip := false
    breakNow := none }

/-- How a stretch of a native run ends: at the body's end, at one of the body's own marks, with what the body would raise as a fault, with something that the unit leaves to the body, or not yet. -/
inductive NativeEnd where
  | done (s : State)
  | mark (s : State)
  | trap (t : TrapRec)
  | stuck
  | waits
  deriving DecidableEq, Repr

/-- The UNCORRECTABLE that the body would raise at a bundle (R116). -/
def uncorrectableAt (pc : Word) (slot : Nat) : TrapRec := ⟨causeUncorrectable, 0, pc, true, slotInfo slot 0⟩

/-- What the loads of the private run end it with: uncorrectable data, or a wait at a bank. -/
def loadsEnd (c : Core) : Option NativeEnd :=
  match c.work.pend.findSome? fun q => match q.load with
    | some l => if l.uncorrectable then some (uncorrectableAt l.pc q.slot) else none
    | none => none with
  | some t => some (.trap t)
  | none =>
    if c.work.pend.any (fun q => match q.load with
      | some l => !l.arrived && l.reread
      | none => false) then some .waits else none

/-- Loads of the private run have their data. -/
def nativeArrivals (c : Core) : Core :=
  { c with work := { c.work with pend := c.work.pend.map fun q =>
      { q with load := q.load.map fun l => { l with arrived := true, readyAt := 0 } } } }

/-- Repetitions of a running OPAR: one, or all that remain (R212). -/
def nativeReps (p : Nat) (all : Bool) : Nat → State → Except NativeEnd State
  | 0, s => .ok s
  | n + 1, s =>
    let c := s.core p
    match c.work.opar with
    | none => .ok s
    | some o =>
      if o.remaining = 0 then .ok (s.setCore p { c with work := c.work.finishOpar c.work.bno })
      else match oparRepeat p o s with
        | none => .error (.trap ⟨causePoison, 0, c.work.pc, c.work.space, slotInfo 4 0⟩)
        | some t => if all then nativeReps p all n t else .ok t

/-- The repetitions that an OPAR may have, and its end. -/
def repFuel : Nat := 2 ^ 16

/-- A wait whose time is over ends as its cycle does: a completion of that cycle comes first (R147). -/
def endLate (w : TimedWait) (s : State) : State :=
  if s.waits.contains w then endWait w ((waitCode s w).getD 1) s else s

/-- A value-returning word of the private run is performed at its home now (R113, R153); `since` is when the unit began this stretch. -/
def nativeValue (p since : Nat) (v : ValueReq) (s : State) : Except NativeEnd State :=
  let vid := s.nextVal
  let s := performValue (nativeAgent p) p v s
  let mine := s.reqs.filter fun (_, r) => r.parts.any fun q => decide (q.vid = vid)
  let waits := s.waits.filter fun w => decide (w.vid = vid)
  if mine.any (fun (_, r) => r.locs.any s.isPoisoned) || waits.any (fun w => s.isPoisoned w.loc) then .error .stuck
  else
    let s := mine.foldl (fun s (n, _) => atomicStep n s) s
    let s := waits.foldl (fun s w => match waitCode s w with
      | some n => endWait w n s
      | none => if w.deadline + since ≤ 2 * s.cyc.toNat then endLate w (s.until (s.cyc.toNat + 1)) else s) s
    let s := valueStep p s
    if (s.core p).value.isEmpty then .ok s else .error .waits

/-- An effect of the private run takes place at once: a command completes and sets its flag, or is left to the body. -/
def nativeEffect (p since : Nat) (s : State) (e : Effect) : Except NativeEnd State :=
  match e with
  | .command c =>
    let k := s.nextOp
    let s := completeOp k (releaseCommand p c s)
    match Store.find? s.ops k with
    | some o => .error (if opBlocked s o then .waits else .stuck)
    | none => .ok (match c.flag with
        | some fl => s.onCore p fun c => { c with work := c.work.setFlagAt fl.1 fl.2 }
        | none => s)
  | .value v => nativeValue p since v s
  | .brel mask => .ok (brelCommit p mask s)
  | _ => .error .stuck

/-- A tile operation, or a store to the own B-plane, of the private run. -/
def nativeOp (p : Nat) (s : State) (o : Nat × TileOp) : Except NativeEnd State :=
  if o.2.scrubHeld s then .error .waits
  else match o.2.bad s with
    | some (pc, _) => .error (.trap (uncorrectableAt pc 4))
    | none => .ok ((applyOp s p o.2).onCore p fun c => { c with applied := c.applied + bit (!o.2.isStore) })

/-- What the private run's open segment holds back takes effect at once: a failed check, uncorrectable data, a wait at a bank end the run. -/
def nativeCommit (p since : Nat) (s : State) : Except NativeEnd State :=
  let g := (s.core p).seg
  match g.bad, g.checks.find? (·.fails) with
  | some (pc, _), _ => .error (.trap (uncorrectableAt pc 4))
  | none, some k => .error (.trap ⟨causeMismatch, 0, k.pc, true, slotInfo k.kind.slot 0⟩)
  | none, none =>
    if g.stores.any (CaskEntry.waits s) then .error .waits
    else do
      let s := s.onCore p fun c => { c with seg := Segment.opened c.work.pc true, mark := c.work, com := c.work }
      let s := (g.stores.filter fun e => !e.bytes.any fun (a, _) => isOwnBplane p a).foldl (fun s e => performStore p e s) s
      let s ← (tileQueue p g).foldlM (nativeOp p) s
      g.effects.foldlM (nativeEffect p since) s

/-- A bundle of the private run, at `pc`, with what follows its slots. -/
def nativeSlots (p : Nat) (pc : Word) (recovery : Bool) (fin : Header → State → State) (s : State) : Except NativeEnd State :=
  match fetchAt s (s.core p) pc true with
  | none => .error .stuck
  | some b =>
    let h := headerOf b
    if h.wait &&& ~~~(s.core p).work.flags ≠ 0 then .error .waits
    else if h.rz then .error .stuck
    else match issueCheck false recovery b with
      | some (cause, info) => .error (.trap ⟨cause, 0, pc, true, info⟩)
      | none => do
        let s ← nativeReps p (pressWord b).isSome repFuel s
        let t := runBundle p b ((s.landed p).onCore p fun c => { c with work := { c.work with pc := pc }, flagHit := 0 })
        match (t.core p).sync, loadsEnd (t.core p) with
        | some r, _ => .error (.trap r)
        | none, some e => .error e
        | none, none => .ok ((fin h t).onCore p nativeArrivals)

/-- The bundle due in the private run, with the recovery bundle that merges into it (R162). -/
def nativeBundle (p since : Nat) (s : State) : Except NativeEnd State := do
  let pc := (s.core p).work.pc
  let s ← match (s.core p).work.recov with
    | some a => nativeSlots p a true (fun h => finishRecovery p h pc true) s
    | none => .ok s
  let s ← nativeSlots p pc false (finishBundle p) s
  nativeCommit p since (finishCall p (s.core p).work.pc (s.core p).work.space s)

/-- The body's bundles one after the other, up to one of its own marks where `marks` says so, or to its end; `depth` is the routine depth of the body. -/
def nativeRun (p depth since : Nat) (marks : Bool) : Nat → State → NativeEnd
  | 0, _ => .waits
  | fuel + 1, s =>
    let c := s.core p
    if atReturn s c && c.work.recov.isNone then
      match (nativeReps p true repFuel s).bind (nativeCommit p since) with
      | .error e => e
      | .ok s => if c.work.frames.length = depth then .done (s.onCore p Core.landAll) else nativeRun p depth since marks fuel (leaveCall p s)
    else match nativeBundle p since s with
      | .error e => e
      | .ok t =>
        let n := t.core p
        let mk := match fetchAt t n n.work.pc true with
          | some b => (headerOf b).mark
          | none => false
        if marks && mk && decide (n.work.frames.length = depth) then .mark t else nativeRun p depth since marks fuel t

/-- The bundles that a native run may take: more than any package issues, so that a run which reaches its end reaches it here. One that would still go on after them has no end, as its body has none, and its call stays in flight. -/
def nativeFuel : Nat := 2 ^ 200

/-- The next stretch of a graft of core `p`: to the next body mark of a step-grade one, else to the end (R32). -/
def nativeCall (s : State) (p id : Nat) (g : Graft) : NativeEnd :=
  nativeRun p g.body.frames.length g.since g.step nativeFuel (s.setCore p (nativeCore (s.core p) id g.body))

/-- The routine's sticky bits and its zeroing of the clobber set, in one copy (R29). -/
def Regs.graftDone (r : Regs) (st : BitVec 6) (wn : BitVec 7) : Regs :=
  let z := r.zeroClobber
  { z with stat := z.stat ||| st, warn := z.warn ||| wn }

/-- The bytes that a load of the core keeps and that the state `t` has otherwise than `s`. -/
def Core.keptChanged (c : Core) (s t : State) : List Nat :=
  ((c.work.pend ++ c.mark.pend ++ c.com.pend).flatMap fun q => match q.load with
    | some l => (l.kept ++ l.seen).map (·.1)
    | none => []).filter fun a => decide (s.readByte a ≠ t.readByte a)

/-- What a stretch of a graft leaves of the private run `t`, apart from the registers: its memory, tiles, operations, reports and bank releases; loads that wait for the graft read what it has written (R29, R128). -/
def graftEffects (s t : State) (p id : Nat) : State :=
  let c := s.core p
  let n := t.core p
  t.setCore p { c.unkeep (graftTag id) ((c.keptChanged s t).map fun a => (a, t.readByte a)) with
    tiles := n.tiles
    applied := n.applied
    reads := n.reads
    bown := n.bown
    brels := n.brels
    async := c.async ++ n.async
    inserts := c.inserts ++ n.inserts }

/-- What a grafted call's completion leaves: beside the effects, the core keeps its own registers but for the sticky bits and the clobber set, which a compensating run leaves alone too (R29, R178). -/
def graftResult (s t : State) (p id : Nat) (inserted : Bool) : State :=
  let st := (t.core p).work.stat
  let wn := (t.core p).work.warn
  let f (r : Regs) : Regs := if inserted then { r with stat := r.stat ||| st, warn := r.warn ||| wn } else r.graftDone st wn
  (graftEffects s t p id).onCore p fun c =>
    { c with work := f c.work, mark := f c.mark, com := f c.com, grafts := Store.erase c.grafts id }

/-! ### Grafted calls -/

/-- The graft-table entry of a call. -/
def graftEntry (s : State) (c : Core) (idx : Nat) : Option GraftEntry := (s.imageOf c).routines[idx]?.bind (·.entry)

/-- No older released call waits for the same unit, and none runs on it (R29). -/
def unitFree (s : State) (c : Core) (id : Nat) (u : NativeUnit) : Bool :=
  c.grafts.all fun (k, g) =>
    decide (k = id) || decide (callUnit s c g.call.routine ≠ some u) || (!g.started && decide (id < k))

/-- A call that runs as its body instead, from the state given, is inserted at the core's next mark, as R178's calls are (R36, R265; DESIGN CHOICE, log 107: R36 gives no moment). -/
def insertBody (p id : Nat) (g : Graft) (state : Regs) (s : State) : State :=
  opEnded p (graftTag id) (s.onCore p fun c =>
    let c := { c with grafts := Store.erase c.grafts id }
    match c.comp, g.call.flag with
    | some i, none => { c with comp := none, inserts := { i with body := true, state := some state } :: c.inserts }
    | _, fl => { c with inserts := c.inserts ++ [⟨g.call.routine, g.call.q, none, fl, some state, true⟩] })

/-- GRAFT_START (R29, R265): the native unit accepts the call; one resumed at a body mark that is not grafted any more runs the rest of its body. -/
def graftStartStep (p id : Nat) (s : State) : State :=
  let c := s.core p
  match Store.find? c.grafts id with
  | none => s
  | some g => match (s.imageOf c).routines[g.call.routine]?, graftEntry s c g.call.routine with
    | some m, some e =>
      if g.started || g.faulted || decide (c.run ≠ .running ∧ c.run ≠ .ending) then s
      else if g.resumed && (graftTaken s p g.call.routine m g.call.q).isNone then insertBody p id g g.body s
      else if unitFree s c id e.unit then
        s.setCore p { c with grafts := Store.put c.grafts id { g with started := true, step := e.stepGrade, since := s.cyc.toNat } }
      else s
    | some _, none => insertBody p id g g.body s
    | none, _ => s

def execGraftStart (p id : Nat) (s : State) : Outcome State Fault Refusal := .next (graftStartStep p id s)

/-- The flag of a grafted call is set in all copies, when no other operation is bound to it (R29, R99, R221); its request is free (R219). -/
def graftFlag (p : Nat) (fl : Option (Nat × Nat)) (s : State) : State :=
  match fl with
  | some q => flagEnd p q (s.onCore p fun c => { c with reserved := c.reserved - 1 })
  | none => s

/-- The core waits for its step-grade grafts to stand at a body mark: it saves, or traps, or a report or a soft pre-emption finds it at a mark (R35, R259, R265). -/
def Core.saving (c : Core) : Bool :=
  c.sync.isSome || c.saveKind.isSome || (c.atMark && !c.sup && (!c.async.isEmpty || c.softDue))

/-- What a graft's call came after on its core is performed: stores, loads, atomics (Table 6.2 fk, R30, R135) and tile operations of its bundle and older ones; a unit that adds to the press's tiles also takes its turn behind every entry that has been committed (R29, R210). -/
def graftStoresDone (s : State) (p id : Nat) (g : Graft) : Bool :=
  let c := s.core p
  let press := callUnit s c g.call.routine = some .press || callUnit s c g.call.routine = some .residue
  let n := g.call.bno
  (if press then c.opaq.isEmpty else c.opaq.all fun o => decide (n < o.1)) &&
    (c.heldStores.all fun e => e.after.contains (graftTag id) || decide (n < e.bno)) && !s.accessesWait p (n + 1)

/-- Whether a graft may go on to its next final state: its unit runs it, what was committed before its release is performed, and of step grade D has passed since its last final mark with no strike in the unit's region (R29, R32, R35). -/
def graftGoes (s : State) (p id : Nat) (g : Graft) : Bool :=
  let c := s.core p
  g.started && !g.faulted && !(g.stopped && c.saving) && graftStoresDone s p id g &&
    (!g.step || decide (g.since + Config.commitDelay ≤ s.cyc.toNat))

/-- A graft of core `p` replaced. -/
def setGraft (p id : Nat) (g : Graft) (s : State) : State := s.onCore p fun c => { c with grafts := Store.put c.grafts id g }

/-- The disagreements that the witness finds at the entries of the press which a graft applied, the first of them entry number `n` of the press, take effect (R29, R316). -/
def witnessRun (p n : Nat) (ds : List Nat) (s : State) : State :=
  (ds.zipIdx.filter fun d => decide (n + d.2 < (s.core p).applied)).foldl (fun s d => witnessFinds p ((n + d.2) % 64) d.1 s) s

/-- GRAFT_COMPLETION (R29, R32, R35): the results of the body become final, of a step-grade call at each body mark and at the end, of a whole-grade one at the end. A step-grade unit that cannot reach its next mark while the core saves stands at its last one. -/
def graftCompletionStep (p id : Nat) (ds : List Nat) (s : State) : State :=
  match Store.find? (s.core p).grafts id with
  | none => s
  | some g =>
    if !graftGoes s p id g then s
    else
      let saving := (s.core p).saving
      match nativeCall s p id g with
      | .done t => checkGates (opEnded p (graftTag id) (graftFlag p g.call.flag (witnessRun p (s.core p).applied ds (graftResult s t p id g.call.flag.isNone))))
      | .mark t =>
        checkGates (setGraft p id { g with body := (t.core p).work, since := s.cyc.toNat, stopped := saving }
          (witnessRun p (s.core p).applied ds (graftEffects s t p id)))
      | _ => if g.step && saving then setGraft p id { g with stopped := true } s else s

def execGraftCompletion (p : Nat) (id : Nat × List Nat) (s : State) : Outcome State Fault Refusal := .next (graftCompletionStep p id.1 id.2 s)

/-- Whether the unit meets what the body would raise as a fault, or what it leaves to the body; the trap, if it is one. -/
def graftFails (s : State) (p id : Nat) (g : Graft) : Option (Option TrapRec) :=
  match nativeCall s p id g with
  | .done _ | .mark _ | .waits => none
  | .trap t => some (some t)
  | .stuck => some none

/-- A check of the unit itself has failed: it is counted against the unit, and the call starts again, a step-grade one from its last final body mark (R35, R36, R319). Nothing of a stretch has taken effect before its end, so what is left is the time. -/
def unitFails (p id : Nat) (g : Graft) (s : State) : State :=
  match graftEntry s (s.core p) g.call.routine with
  | some e => defer p [unitEntry (unitNumber p e.unit)] (setGraft p id { g with since := s.cyc.toNat } s)
  | none => s

/-- A check of the body that a unit runs has failed: it is counted against the unit (R319). -/
def countUnit (p : Nat) (e : Option GraftEntry) (t : Option TrapRec) (s : State) : State :=
  match e, t with
  | some e, some t => if t.cause = causeMismatch then defer p [unitEntry (unitNumber p e.unit)] s else s
  | _, _ => s

/-- GRAFT_FAULT (R36): a whole-grade call drops its effects and runs as its body from offset 0; after a failed check of the unit it starts again, grafted. -/
def graftFaultStep (p id : Nat) (check : Bool) (s : State) : State :=
  match Store.find? (s.core p).grafts id with
  | none => s
  | some g =>
    if !g.started || g.faulted || g.step then s
    else if check then unitFails p id g s
    else match graftFails s p id g with
      | none => s
      | some t => insertBody p id g g.call.entry (countUnit p (graftEntry s (s.core p) g.call.routine) t s)

def execGraftFault (p : Nat) (id : Nat × Bool) (s : State) : Outcome State Fault Refusal := .next (graftFaultStep p id.1 id.2 s)

/-- STEP_GRAFT_FAULT (R35): the body's fault is delivered at the caller's next mark, with TPC in the body and TINFO the routine and the caller's depth at the RCALL (DESIGN CHOICE, log 80: the rule says depth, and not which). In a compensating run it fails the merged abandonment (R178). After a failed check of the unit it goes on from its last final body mark. -/
def stepGraftFaultStep (p id : Nat) (check : Bool) (s : State) : State :=
  match Store.find? (s.core p).grafts id with
  | none => s
  | some g =>
    if !g.started || g.faulted || !g.step then s
    else if check then unitFails p id g s
    else match graftFails s p id g with
      | none => s
      | some none => insertBody p id g g.body s
      | some (some t) =>
        let depth := match g.call.flag with
          | some fl => fl.1
          | none => (s.core p).work.frames.length
        let s := addReport p ⟨t.cause, 4, t.pc, true, BitVec.ofNat 64 (g.call.routine ||| (depth <<< 8))⟩
          (setGraft p id { g with faulted := true } (countUnit p (graftEntry s (s.core p) g.call.routine) (some t) s))
        if g.call.flag.isNone then failRun p s else s

def execStepGraftFault (p : Nat) (id : Nat × Bool) (s : State) : Outcome State Fault Refusal := .next (stepGraftFaultStep p id.1 id.2 s)

/-! ### Inserted calls -/

/-- What precedes an abandonment on the core that caused it is not performed yet: its stores, its loads at their banks and its atomics, those of code that an inserted call interrupts included. The compensating run begins after them (Table 6.2 fk, R138, R250). -/
def runHeld (s : State) (i : Inserted) : Bool :=
  match i.seq.bind fun q => (s.records.find? fun r => decide (r.seq = q)).bind fun r => Store.find? s.acts r.act with
  | some a => (s.core a.cause).heldStores.any (fun e => decide (e.bno < a.before)) ||
      (s.core a.cause).opaq.any (fun o => o.2.isStore && decide (o.1 < a.before)) || s.accessesWait a.cause a.before ||
      s.reqs.any fun (_, r) => !r.applied && r.parts.any fun q => decide (q.core = a.cause) && (s.core a.cause).heldValue.any fun v => decide (v.vid = q.vid)
  | none => false

/-- The core stands at a mark with every segment committed and may take an inserted call (R248). -/
def insertReady (c : Core) : Bool :=
  c.active && !c.sup && c.sync.isNone && c.saveKind.isNone && !c.restarting && c.comp.isNone && c.atMark &&
    c.pending.isNone

/-- The registers of `r` with the body state `b` in place of what a body owns: the clobber set, q0 to q7, the frame set, flags, loops, what is pending; its sticky bits are raised (R27, R32, R265). `f` is the caller's frame. -/
def Regs.continueBody (r : Regs) (f : Frame) (b : Regs) : Regs :=
  let n := Nat.max r.bno b.bno
  let own (k : Nat) : Bool := decide (24 ≤ k)
  let move (q : Pending) : Pending := { q with vis := q.vis + (n - b.bno), bno := q.bno + (n - b.bno) }
  { b with
    sc := mergeFile own r.sc b.sc
    poison := mergeMask 0x0FFFFFFFFF000000 r.poison b.poison
    v := mergeFile (fun k => decide (40 ≤ k)) r.v b.v
    vpoison := mergeMask 0xFF0000000000 r.vpoison b.vpoison
    e := r.e
    g := mergeFile (fun k => decide (12 ≤ k)) r.g b.g
    stat := r.stat ||| b.stat
    warn := r.warn ||| b.warn
    seed := r.seed
    sridx := r.sridx
    goff := r.goff
    frames := f :: r.frames
    rz := r.rz
    pend := b.pend.map move
    bno := n
    lastPc := r.lastPc
    lastSpace := r.lastSpace
    comps := r.comps }

/-- The register state in which an inserted body starts, or goes on: what was pending of its caller has landed, q0 to q7 are the call's (R27, R248). -/
def Core.insertedRegs (c : Core) (m : Routine) (i : Inserted) : Regs :=
  let r := c.landAll.work
  let f := r.frame i.routine 0 r.pc r.space true
  match i.state with
  | some b => r.continueBody f b
  | none => { (r.setQueue i.q).enterBody m f with opar := none, rrec := none, recov := none }

/-- The body of an inserted call begins, in a segment of its own (R248). -/
def startInserted (p : Nat) (m : Routine) (i : Inserted) (s : State) : State :=
  s.onCore p fun c =>
    let r := c.insertedRegs m i
    { c with
      work := r
      mark := r
      com := r
      run := .running
      seg := Segment.opened r.pc true
      markAfter := false
      comp := some i
      inserts := c.inserts.erase i
      heldValue := c.value
      value := []
      turnAt := Nat.max c.turnAt (s.cyc.toNat + c.ahead s.cyc.toNat) }

/-- A compensating run that cannot begin: the run fails (R178). -/
def refuseRun (p : Nat) (i : Inserted) (s : State) : State :=
  let s := s.onCore p fun c => { c with inserts := c.inserts.erase i }
  match i.seq with
  | some q => runFailed s p q
  | none => graftFlag p i.flag s

/-- Whether core `p` takes the inserted call that is its next one now: a graft needs a place among the four in flight, a body a free frame and nothing owed (R29, R248). -/
def takesInsert (s : State) (p : Nat) : Bool :=
  let c := s.core p
  insertReady c && match nextInsert s p with
    | none => false
    | some i => !runHeld s i && if (insertGraft s p i).isSome then decide (graftsOut c < 4) else decide (c.work.frames.length < 4) && !c.work.owed

/-- A core held on WAIT or RZ at a bundle whose recovery bundle has issued stands at the mark of both: where it can take an inserted call, what that bundle has done is done again after the call (R162, R248). -/
def backForInsert (p : Nat) (s : State) : State :=
  let c := s.core p
  let waits := match s.nextBundle p with
    | some b => (headerOf b).rz || !c.flagsReady s.cyc.toNat (headerOf b).wait
    | none => false
  let t := s.setCore p { c.discard with turnAt := Nat.max c.turnAt s.cyc.toNat }
  if c.merged && c.pending.isNone && waits && takesInsert t p then t else s

/-- COMPENSATING_CALL (R178, R248): the next inserted call is taken; a compensating run is grafted where R31 grafts it, and released at once; an ungrafted one waits for a free frame, and those that are grafted do not wait for it. -/
def compensatingStep (p : Nat) (s : State) : State :=
  let s := backForInsert p s
  let c := s.core p
  match nextInsert s p with
  | none => s
  | some i =>
    if !insertReady c || runHeld s i then s
    else match (s.imageOf c).routines[i.routine]? with
      | none => refuseRun p i s
      | some m =>
        if !tilesAllowed (s.imageOf c) m i.q then refuseRun p i s
        else match insertGraft s p i with
          | some _ =>
            if 4 ≤ graftsOut c then s
            else releaseGraft p ⟨i.routine, i.q, c.graftRegs m i.routine 0 i.q true, none, c.com.pc, c.com.space, c.com.bno⟩
              (s.setCore p { c with comp := some i, inserts := c.inserts.erase i })
          | none => if decide (c.work.frames.length = 4) || c.work.owed then s else startInserted p m i s

def execCompensatingCall (p : Nat) (s : State) : Outcome State Fault Refusal := .next (compensatingStep p s)

/-- The clobber set is zeroed in one copy after all for a call whose body ran in place of its graft (R29). -/
def Core.clearClobber (c : Core) : Core :=
  { c with work := c.work.zeroClobber, mark := c.mark.zeroClobber, com := c.com.zeroClobber }

/-- COMPENSATION_COMPLETE (R138, R178, R248): the inserted call has returned or its graft has ended, its segments have committed and its writes are performed; the record is done, or the call's flag is set. -/
def compensationStep (p : Nat) (s : State) : State :=
  let c := s.core p
  match c.comp with
  | none => s
  | some i =>
    let running := c.work.frames.any (·.inserted) || c.com.frames.any (·.inserted) ||
      c.grafts.any fun (_, g) => g.call.flag.isNone
    if running || c.pending.isSome || !c.heldStores.isEmpty || !c.opaq.isEmpty then s
    else
      let s := s.setCore p { c with comp := none, value := c.heldValue ++ c.value, heldValue := [] }
      let s := match i.flag with
        | some fl => graftFlag p (some fl) (s.onCore p Core.clearClobber)
        | none => s
      match i.seq with
      | some q => runDone s q
      | none => s

def execCompensationComplete (p : Nat) (s : State) : Outcome State Fault Refusal := .next (compensationStep p s)

end Sys2Proof.Machine
end

