-- ==== Sys2Proof/Machine/SchedEvents.lean ====
section
/-! DEFINITION. Pre-emption, saves, resumptions and kills; queues, launch, the arbiter and the scheduler cores (R119, R120, R180, R263 to R268, R271 to R287, R326, R327). -/

namespace Sys2Proof.Machine

open Host (Outcome)

/-! ### Queues as they stand in memory -/

/-- The die of an arbitration group: that of its lowest cluster (R285). -/
def Group.die (g : Group) : Nat := g.clusters.foldl Nat.min (g.clusters.headD 0) / 20

/-- A group that has no configuration. -/
def Group.none : Group := ⟨[], 1048576, 262144, 1048576, [], Option.none, 0, [], [], Option.none, 0, Option.none, 0⟩

/-- A queue that has no configuration. -/
def Queue.none : Queue := ⟨⟨0, 0, 0, 0, 0, 0, 0, 0⟩, 0, 0, false, 0, false⟩

/-- Arbitration group `n`. -/
def State.group (s : State) (n : Nat) : Group := Store.get Group.none s.groups n

/-- Queue `q`. -/
def State.queue (s : State) (q : Nat) : Queue := Store.get Queue.none s.queues q

/-- The scheduler cores of a die. -/
def State.sched (s : State) (d : Nat) : Sched := Store.get ⟨[], false, true, [], [], 0⟩ s.scheds d

/-- The die that owns a queue (R285). -/
def queueDie (s : State) (q : Nat) : Nat := (s.group (s.queue q).conf.group.toNat).die

/-- The location of a queue's descriptor. -/
def queueLoc (s : State) (q : Nat) : Nat := cellarLoc (queueDie s q) (s.queue q).conf.loc

/-- The entries that the journal of a die holds: 256 KiB of 64 bytes each (R285). -/
def journalSize : Nat := 4096

/-- A decision is journalled before its effect; the ring keeps the last 4,096 (R285). -/
def journal (d : Nat) (e : Decision) (s : State) : State :=
  let k := s.sched d
  { s with scheds := Store.put s.scheds d { k with journal := k.journal.drop (k.journal.length + 1 - journalSize) ++ [e] } }

/-- A scheduler core of a die has failed and the standby has not taken over yet (R286). -/
def inTakeover (s : State) (q : Nat) : Bool := (s.sched (queueDie s q)).takeover

/-- HEAD takes a new value (R272). -/
def setHead (q : Nat) (v : BitVec 32) (s : State) : State :=
  let s := journal (queueDie s q) (.head q) s
  { s.writeNat (queueLoc s q + 16) 4 v.toNat with queues := Store.put s.queues q { s.queue q with head := v } }

/-- PASS takes a new value. -/
def setPass (q : Nat) (v : BitVec 64) (s : State) : State :=
  let s := journal (queueDie s q) (.pass q) s
  { s.writeNat (queueLoc s q + 24) 8 v.toNat with queues := Store.put s.queues q { s.queue q with pass := v } }

/-- The stride of a queue (R282): TICKETS 0 is read as 1, values above 1,024 as 1,024. -/
def stride (t : BitVec 16) : Nat := 1048576 / Nat.max 1 (Nat.min t.toNat 1024)

/-! ### Task records -/

/-- The pinned segment tables through which the scheduler finds the ring of a queue: that of the context which system software has named for the queue, else those of the loaded kernels, then the supervisor's (R272, R289; DESIGN CHOICE, log 82: the rule says a pinned segment of the partition, and not of which context). -/
def ringTables (s : State) (q : Nat) : List (Store (BitVec 256)) :=
  (match Store.find? s.queueCtx q with
    | some ctx => [engineSegs s ctx]
    | Option.none => (s.images.map fun e => engineSegs s e.2.ctx).eraseDups) ++ [s.supSegs]

/-- The location of a VA in the ring of queue `q`: a cellar, or a pinned segment. -/
def ringLoc (s : State) (q va : Nat) : Option Nat :=
  match windowOf 0 va with
  | some (.cellar d off) => some (cellarLoc d off)
  | some (.globalVA v) => (ringTables s q).findSome? fun t => (findSeg t v).bind fun g =>
      let pa := g.pbase + (v - g.vbase)
      if backedPA s.cxlSize pa then some pa else Option.none
  | _ => Option.none

/-- The location of the task record at HEAD (R272, R277). -/
def headRecord (s : State) (q : Nat) : Option Nat :=
  let k := s.queue q
  ringLoc s q (k.conf.ring.toNat + 128 * (k.head.toNat % 2 ^ k.conf.log2n.toNat))

/-- `n` bytes of a task record at `off` (Table 16.3). -/
def recNat (s : State) (rec off n : Nat) : Nat := s.readNat (rec + off) n

/-- The image whose descriptor KIMG names, of the context that system software has named for the queue (R278; where it has named none, the descriptor's own context is the queue's: DESIGN CHOICE, log 82). -/
def recImage (s : State) (q rec : Nat) : Option (Nat × Image) :=
  let ours (i : Image) : Bool := match Store.find? s.queueCtx q with
    | some ctx => decide (i.ctx = ctx)
    | Option.none => true
  List.find? (fun e => decide (e.2.kimg.toNat = recNat s rec 0 8) && ours e.2) s.images

/-- The image is one that the loader accepts (R22 to R26). -/
def imageOk (s : State) (q rec : Nat) : Bool := match recImage s q rec with
  | some (_, i) => i.accepted
  | Option.none => false

/-- The first core of a queue's group: a CVA, DEPVA or ARGS of a record that lies in a window of a core or a cluster is that core's and its cluster's (DESIGN CHOICE, log 105: no rule says which cluster's window a placement of several clusters means). -/
def firstCore (s : State) (q : Nat) : Nat := 8 * ((s.group (s.queue q).conf.group.toNat).clusters.foldl Nat.min
  ((s.group (s.queue q).conf.group.toNat).clusters.headD 0))

/-- The loops' places and trip counts. -/
def recTrips (s : State) (rec : Nat) : List Nat := (List.range (recNat s rec 50 1)).map fun k => recNat s rec (56 + 4 * k) 4
def recPerm (s : State) (rec : Nat) : List Nat := (List.range (recNat s rec 50 1)).map fun k => bitsOf (recNat s rec 52 3) (3 * k) 3

/-- The product T of the trip counts (R15). -/
def recTotal (s : State) (rec : Nat) : Nat := (recTrips s rec).foldl (· * ·) 1

/-- Whether a record is refused (R278): FLAGS[7:1] counts among its reserved bytes (DESIGN CHOICE, log 105). -/
def recRefused (s : State) (q rec : Nat) : Bool :=
  let p := firstCore s q
  let n := recNat s rec 50 1
  let bad (va : Nat) : Bool := decide (va ≠ 0) && (cvaLoc p va).isNone
  decide (recNat s rec 8 8 % 64 ≠ 0) || bad (recNat s rec 32 8) || bad (recNat s rec 40 8) ||
    decide (6 < n) || !((List.range n).all fun k => (recPerm s rec).contains k) || decide (2 ^ 40 < recTotal s rec) ||
    decide (2 ≤ recNat s rec 51 1) || decide (recNat s rec 55 1 ≠ 0) || decide (recNat s rec 84 4 ≠ 0) || decide (recNat s rec 96 32 ≠ 0) ||
    !imageOk s q rec

/-- The state of a record's dependence: launches, waits, or skips with a fault code (R279). -/
def recDepends (s : State) (q rec : Nat) : Bool × Option Nat :=
  match cvaLoc (firstCore s q) (recNat s rec 40 8) with
  | some loc =>
    if recNat s rec 40 8 = 0 then (true, Option.none)
    else
      let o := s.readNat loc 8
      if objPoison o then (true, some (objCode o)) else (decide (objPhase o ≠ recNat s rec 48 2), Option.none)
  | Option.none => (true, Option.none)

/-- Whether a queue has a record at HEAD that may launch, be skipped or be refused (R279). -/
def launchable (s : State) (q : Nat) : Bool :=
  let k := s.queue q
  k.conf.ctl.getLsbD 0 && !k.disabled && !k.running && decide (0 < k.candidates) && match headRecord s q with
    | some r => (recDepends s q r).1 || recRefused s q r
    | Option.none => true

/-- The stated run of a fresh task (Table 16.3). -/
def recRun (s : State) (rec : Nat) : Nat := statedRun (BitVec.ofNat 64 (recNat s rec 80 4))

/-! ### The arbiter -/

/-- The next run of a queue (R282). -/
def nextRunOf (s : State) (g : Group) (q : Nat) : Nat :=
  if g.saved.contains q || decide (g.running = some q) then Store.get 1 g.nextRun q
  else match headRecord s q with
    | some r => recRun s r
    | Option.none => 1

/-- The queues of a group. -/
def groupQueues (s : State) (n : Nat) : List Nat :=
  s.queues.filterMap fun (q, k) => if k.conf.group.toNat = n then some q else Option.none

/-- A queue that becomes runnable takes the least PASS of those that are; one that was chosen for the idle group and is runnable no more is chosen no longer, so that a new decision is due (R282). Of queues that become runnable at one event the lower number comes first, and the later ones count it as already runnable (DESIGN CHOICE, log 105). -/
def refreshRunnable (n : Nat) (s : State) : State :=
  let g := s.group n
  let now := (groupQueues s n).filter fun q => launchable s q || g.saved.contains q || decide (g.running = some q)
  let old := g.runnable.filter now.contains
  let s := (now.filter fun q => !old.contains q).foldl (fun s q =>
    let others := ((s.group n).runnable.filter now.contains).map fun k => (s.queue k).pass.toNat
    let s := match others with
      | [] => s
      | x :: l => setPass q (BitVec.ofNat 64 (Nat.max (s.queue q).pass.toNat (l.foldl Nat.min x))) s
    { s with groups := Store.put s.groups n { s.group n with runnable := (s.group n).runnable ++ [q] } })
    { s with groups := Store.put s.groups n { g with runnable := old, chosen := if g.running.isNone then g.chosen.filter now.contains else g.chosen } }
  s

/-- The choice among runnable queues with `r` cycles left in the slice, and the slice after it (R282). -/
def choose (s : State) (g : Group) (r : Nat) : Option Nat × Nat :=
  let fits := g.runnable.filter fun q => decide (nextRunOf s g q ≤ r)
  let set := if fits.isEmpty then g.runnable else fits
  (set.foldl (fun acc q => match acc with
    | Option.none => some q
    | some b =>
      let x := (s.queue q).pass.toNat
      let y := (s.queue b).pass.toNat
      if decide (x < y) || (decide (x = y) && decide (q < b)) then some q else acc) Option.none,
    if fits.isEmpty then g.slice else r)

/-- The running queue is charged for the cycles since the previous decision (R282). -/
def charge (n q v : Nat) (s : State) : State :=
  let g := s.group n
  let c := s.cyc.toNat - g.lastDecision
  let k := s.queue q
  let s := setPass q (k.pass + BitVec.ofNat 64 (stride k.conf.tickets * ceilDiv c 256)) s
  { s with groups := Store.put s.groups n { g with
      r := g.r - c
      lastDecision := s.cyc.toNat
      nextRun := if v = 0 then g.nextRun else Store.put g.nextRun q v } }

/-- A core that has a task: it runs, or waits for its banks (R16). -/
def Core.placed (c : Core) : Bool := c.active || decide (c.run = .waiting)

/-- A pre-emption is requested of a core that has a task (R119). -/
def askCore (q : Preempt) (p : Nat) (s : State) : State :=
  s.onCore p fun c => if c.placed && decide (c.preempt = .none) && c.saveKind.isNone then { c with preempt := q } else c

/-- Queue `q`'s cores are asked to leave: none of them comes back before the decision that follows (R282, R284). -/
def setLeaving (q : Nat) (b : Bool) (s : State) : State :=
  match Store.find? s.tasks q with
  | some t => { s with tasks := Store.put s.tasks q { t with leaving := b } }
  | Option.none => s

/-- The cores of a queue's placement that have neither ended nor been saved. -/
def placedCores (s : State) (q : Nat) : List Nat :=
  match Store.find? s.tasks q with
  | some t => t.cores.filter fun p => !t.ended.contains p && !t.saved.contains p
  | Option.none => []

/-- The core of the leading yield goes back to that yield's mark, where it is to be saved (R282). -/
def backToYield (p : Nat) (s : State) : State :=
  s.onCore p fun c => if c.active && decide (c.preempt = .none) && c.saveKind.isNone then
    { c.discard with turnAt := Nat.max c.turnAt s.cyc.toNat, repAt := Nat.max c.repAt s.cyc.toNat } else c

/-- The decision at a leading yield, or after the last save of an overrun when `v` is 0 (R282, R284): during a takeover it is always to continue (R286). A switch asks every core for a save of KIND 3, as a soft pre-emption (R266). A leading yield that commits while a switch is under way is a decision like any other: it charges the cycles since the last one and may change the chosen queue (DESIGN CHOICE, log 105). -/
def decideRunning (n q v : Nat) (s : State) : State :=
  let s := charge n q v s
  let g := s.group n
  if (s.sched g.die).takeover then
    { s with groups := Store.put s.groups n (if v = 0 then { g with asked := Option.none, running := Option.none, chosen := some q }
      else { g with asked := Option.none }) }
  else
    let pick := choose s g g.r
    let g := { g with r := pick.2, asked := Option.none }
    match pick.1 with
    | Option.none => { s with groups := Store.put s.groups n g }
    | some q' =>
      if v = 0 then { s with groups := Store.put s.groups n { g with running := Option.none, chosen := some q' } }
      else if q' = q then { s with groups := Store.put s.groups n g }
      else
        let s := setLeaving q true { s with groups := Store.put s.groups n { g with chosen := some q' } }
        (placedCores s q).foldl (fun s p => askCore (.soft 3 s.cyc.toNat) p (if p = g.lead then backToYield p s else s)) s

/-- The decision of an idle group: no queue is charged (R282). -/
def decideIdle (n : Nat) (s : State) : State :=
  let g := s.group n
  if (s.sched g.die).takeover then s
  else
    let pick := choose s g g.slice
    { s with groups := Store.put s.groups n { g with r := pick.2, chosen := pick.1, lastDecision := s.cyc.toNat } }

/-- ARBITER_DECISION (R282): at an idle group with a runnable queue, at a leading yield, and after the last save of an overrun. -/
def arbiterStep (n : Nat) (s : State) : State :=
  let s := refreshRunnable n s
  let g := s.group n
  match g.running, g.asked with
  | some q, some v => decideRunning n q v s
  | some _, Option.none => s
  | Option.none, _ => if g.chosen.isNone && !g.runnable.isEmpty then decideIdle n s else s

def execArbiterDecision (group : Nat) (s : State) : Outcome State Fault Refusal := .next (arbiterStep group s)

/-! ### Pre-emption and saves -/

/-- A core overruns: its issue cycles exceed twice its stated run; one that has been saved for it overruns again once it has issued more (R284; DEDUCED, log 45: the count goes on, and the request is made as cycles are counted). -/
def Core.overruns (c : Core) : Bool := decide (2 * c.stated < c.issued) && decide (c.overAt < c.issued)

/-- An overrun asks a core of the placement for a save of KIND 1, also one that a yield switch has asked before (R284). -/
def askOverrun (p : Nat) (s : State) : State :=
  s.onCore p fun c =>
    if c.placed && c.saveKind.isNone then match c.preempt with
      | .none => { c with preempt := .soft 1 s.cyc.toNat }
      | .soft 3 since => { c with preempt := .soft 1 since }
      | _ => c
    else c

/-- The queue chosen for the group of queue `q`, which runs, is chosen no longer: a decision follows when the placement has left (R284; DEDUCED, log 45). -/
def forgetChoice (q : Nat) (s : State) : State :=
  let n := (s.queue q).conf.group.toNat
  let g := s.group n
  if g.running = some q then { s with groups := Store.put s.groups n { g with chosen := Option.none } } else s

/-- Whether a core has been asked for nothing yet but a yield switch. -/
def Core.mayOverrun (c : Core) : Bool := match c.preempt with
  | .none | .soft 3 _ => true
  | _ => false

/-- OVERRUN (R284): the whole placement is asked to save; a yield switch that was under way becomes a save of KIND 1 on the cores that it has not saved. -/
def overrunStep (p : Nat) (s : State) : State :=
  let c := s.core p
  if c.active && c.overruns && c.mayOverrun && c.saveKind.isNone then
    let s := forgetChoice c.queue (setLeaving c.queue true (s.setCore p { c with overran := some c.issued }))
    (p :: placedCores s c.queue).eraseDups.foldl (fun s k => askOverrun k s) s
  else s

def execOverrun (p : Nat) (s : State) : Outcome State Fault Refusal := .next (overrunStep p s)

/-- SOFT_PREEMPTION (R119, R266): the scheduler's request, and at the core's next mark its effect: the core stands for its save. During a takeover the scheduler asks for nothing, and no yield switch is carried out (R286). An overrun that its core's last bundle has made is seen first (R284). -/
def softStep (p : Nat) (s : State) : State :=
  let s := overrunStep p s
  let c := s.core p
  match c.preempt with
  | .none => if inTakeover s c.queue then s else askCore (.soft 1 s.cyc.toNat) p s
  | .hard _ => s
  | .soft kind _ =>
    if c.placed && !c.sup && c.sync.isNone && c.async.isEmpty && c.saveKind.isNone && !c.restarting && c.softDue && c.atMark &&
        c.pending.isNone && !stopsFirst s p && !(decide (kind = 3) && inTakeover s c.queue) then
      s.setCore p { c with saveKind := some kind, preempt := .none }
    else s

def execSoftPreemption (p : Nat) (s : State) : Outcome State Fault Refusal := .next (softStep p s)

/-- HARD_PREEMPTION (R119, R266): the uncommitted segments are discarded at once and the committed state is to be saved. -/
def hardStep (p : Nat) (s : State) : State :=
  let c := s.core p
  match c.preempt with
  | .hard kind => if c.placed && !c.sup && c.saveKind.isNone then s.setCore p { c.discard with saveKind := some kind, preempt := .none } else s
  | _ => s

def execHardPreemption (p : Nat) (s : State) : Outcome State Fault Refusal := .next (hardStep p s)

/-- HPE_EXPIRY (R284): a soft request that has not taken effect within HPE cycles becomes hard. -/
def hpeStep (p : Nat) (s : State) : State :=
  let c := s.core p
  let hpe := match groupOf s p with
    | some (_, g) => g.hpe
    | Option.none => 262144
  match c.preempt with
  | .soft _ since => if decide (since + hpe ≤ s.cyc.toNat) && c.saveKind.isNone then s.setCore p { c with preempt := .hard 2 } else s
  | _ => s

def execHpeExpiry (p : Nat) (s : State) : Outcome State Fault Refusal := .next (hpeStep p s)

/-- Grafted calls that wait as inserted bodies go back among the graft records; compensating runs go back to the solera (R178, R265). -/
def withdrawInserts (p : Nat) (s : State) : State :=
  let s := (s.core p).inserts.foldl (fun s i => match i.seq with
    | some q => setRec s q fun r => { r with running := false }
    | Option.none => s) s
  s.onCore p fun c => { c.recallGrafts (s.imageOf c).routines s.cyc.toNat with inserts := [] }

/-- The banks whose release waits for engine writes (R165). -/
def Core.releasing (c : Core) : BitVec 32 := c.brels.foldl (fun m b => m ||| b.1) 0 &&& c.bown

/-- What the context keeps of the core's registers outside the copies. The issue count goes on (R284), with what a save for an overrun has recorded of it. -/
def Core.leaving (c : Core) (p : Nat) : CtxRegs :=
  ⟨p, c.bown &&& ~~~c.releasing, c.ctx, c.lcore, c.image, c.queue, c.save, c.svec, c.bke, c.sstep, c.hzd, c.stated, c.yields,
    c.issued, if c.overruns then c.issued else c.overAt, if c.run = .waiting then some c.nextBanks else Option.none, c.delivered⟩

/-- A core whose context leaves it or ends there owns no banks; releases that wait stay, and the banks pass on after them (R106, R165). -/
def Core.yieldBanks (c : Core) : Core := { c with bown := 0, brels := [], lateBrels := c.lateBrels ++ c.brels }

/-- A core that no context occupies. Stores that still wait for engine writes, releases of banks that do, and the requests of released operations stay (R165, R219, R265). -/
def Core.vacated (c : Core) (run : RunState) : Core :=
  { c.yieldBanks with
    run := run
    saveKind := Option.none
    preempt := .none
    sync := Option.none
    async := []
    grafts := []
    inserts := []
    comp := Option.none
    value := []
    heldValue := []
    valueBack := []
    reserved := c.reserved - c.callRequests
    callQ := Option.none
    segs := []
    tiles := []
    seg := Segment.opened 0 false
    pending := Option.none
    failRec := Option.none
    badRec := Option.none
    rolls := 0
    restarting := false
    issued := 0
    overran := Option.none
    overAt := 0 }

/-- The last core of a placement has been saved, or has ended when the others are saved: after a switch the group is free for the chosen queue, after an overrun a decision is due (R282, R284). The number of its last leading yield goes with it. -/
def placementLeft (q : Nat) (t : Task) (s : State) : State :=
  let n := (s.queue q).conf.group.toNat
  let g := s.group n
  if t.cores.all (fun k => t.ended.contains k || t.saved.contains k) && !t.saved.isEmpty && decide (g.running = some q) then
    let s := journal g.die (.savedPlacement q) { s with tasks := Store.put s.tasks q { t with yields := g.yields } }
    let g := { g with saved := g.saved ++ [q] }
    { s with groups := Store.put s.groups n (if g.chosen.isSome then { g with running := Option.none, lastDecision := s.cyc.toNat }
      else { g with asked := some 0 }) }
  else s

/-- A core of a placement has been saved. -/
def placementSaved (p q : Nat) (s : State) : State :=
  match Store.find? s.tasks q with
  | Option.none => s
  | some t =>
    let t := { t with saved := t.saved ++ [p] }
    placementLeft q t { s with tasks := Store.put s.tasks q t }

/-- What a save still waits for: queued tile writes, owed loads, values, grafts on their way to a body mark (R265). -/
def Core.saveReady (c : Core) : Bool := c.readyToSave && !c.restarting

/-- CONTEXT_SAVE (R263 to R267): the save area is written, VALID last, and the context leaves the core. -/
def saveStep (p : Nat) (s : State) : State :=
  let c := s.core p
  match c.saveKind with
  | Option.none => s
  | some kind =>
    if !c.saveReady || (decide (kind = 3) && inTakeover s c.queue) then s
    else
      let overran := decide (kind = 1 ∨ kind = 2) && (c.overran.isSome || c.overruns)
      let t : TrapRec := ⟨causeYieldOverrun, 8, 0, false, BitVec.ofNat 64 (Nat.max (c.overran.getD 0) c.issued)⟩
      let trap := if overran then (t.causeWord.toNat, 0, t.info.toNat) else (0, 0, 0)
      let s := withdrawInserts p (settleStores p s)
      let c := s.core p
      let s := writeSave s p c.com kind c.bskip trap c.graftRecords
      let base := saveLoc s c
      let s := detachOps s p
      let s := match base with
        | some b => match Store.find? s.extras b with
          | some e => { s with extras := Store.put s.extras b { e with left := some (c.leaving p) } }
          | Option.none => s
        | Option.none => s
      let here := base.map fun b => (c.ctx.toNat, b)
      let c' := c.vacated .saved
      let s := s.setCore p (if c.parked.isNone then { c' with parked := here }
        else { c' with outgoing := here, parkAt := s.cyc.toNat + 64 })
      placementSaved p c.queue s

def execContextSave (p : Nat) (s : State) : Outcome State Fault Refusal := .next (saveStep p s)

/-! ### Resumption -/

/-- The placement of queue `q` runs, and none of its cores is on its way out or waits for a decision (R282, R284). -/
def Group.stays (s : State) (g : Group) (q : Nat) : Bool :=
  decide (g.running = some q) && g.chosen.isNone && g.asked.isNone && match Store.find? s.tasks q with
    | some t => !t.leaving
    | Option.none => true

/-- The saved contexts that may come back onto core `p`: the location of the area and what the context left. Where the core belongs to a group, only the queue that the arbiter has chosen or that is coming back (R282). -/
def resumable (s : State) (p : Nat) : List (Nat × CtxRegs) :=
  let l := s.extras.filterMap fun (b, e) => match e.left with
    | some r => if decide (r.core = p) && saveOk s b then some (b, r) else Option.none
    | Option.none => Option.none
  match groupOf s p with
  | Option.none => l
  | some (_, g) => l.filter fun (_, r) =>
      (decide (g.chosen = some r.queue) && g.running.isNone && g.saved.contains r.queue) || g.stays s r.queue ||
        (Store.find? s.tasks r.queue).isNone

/-- The group's placement begins to come back (R282): it is journalled as started (R285). -/
def groupResumes (p q : Nat) (s : State) : State :=
  let s := match Store.find? s.tasks q with
    | some t => { s with tasks := Store.put s.tasks q { t with saved := t.saved.filter fun k => decide (k ≠ p) } }
    | Option.none => s
  match groupOf s p with
  | Option.none => s
  | some (n, g) =>
    if decide (g.running = some q) then s
    else
      let s := setLeaving q false (journal g.die (.started q) s)
      let k := s.extras.foldl (fun m (_, e) => match e.left with
        | some r => if r.queue = q then Nat.max m r.yields else m
        | Option.none => m) (match Store.find? s.tasks q with
        | some t => t.yields
        | Option.none => 0)
      { s with groups := Store.put s.groups n { g with
          running := some q
          chosen := Option.none
          saved := g.saved.filter fun j => decide (j ≠ q)
          yields := k
          asked := Option.none
          lastDecision := s.cyc.toNat } }

/-- A level whose remaining trips a save recorded starts anew (R120). Without trips left issue continues after its end, where an enclosing level may end as well (R102). -/
def Core.resumeLevel (c : Core) : Core :=
  match c.work.rrec with
  | some r =>
    if (c.work.loops.getD r.level Loop.idle).active then c
    else
      let q := c.reloadLevel r
      let q := if r.r = 0 then
          let e := passEnds r.stop 4 [r.level] q.1
          (e.1, e.2.getD q.2)
        else q
      let w := { q.1.work with pc := q.2 }
      { q.1 with work := w, mark := w, com := w, seg := Segment.opened w.pc w.space }
  | Option.none => c

/-- A saved context comes back onto core `p` from the area at `b`: the B-plane is zeroed when the core last ran another one (R339; DESIGN CHOICE, log 106: R18 has pre-emption change no result, and R257 saves no B-plane). One that still waited for its banks waits on (R16). A core that finds uncorrectable data in the area consumes it for good: it stops and reports (R310; DESIGN CHOICE, log 73). -/
def resumeFrom (p b : Nat) (r : CtxRegs) (s : State) : State :=
  let s := (zeroForContext p 0 r.ctx.toNat s).onCore p fun c =>
    { c with
      bown := r.bown ||| c.bown
      ctx := r.ctx
      lcore := r.lcore
      image := r.image
      queue := r.queue
      save := r.save
      svec := r.svec
      bke := r.bke
      sstep := r.sstep
      hzd := r.hzd
      stated := r.stated
      yields := r.yields
      issued := r.issued
      overAt := r.overAt
      delivered := r.delivered
      sup := false
      turnAt := Nat.max c.turnAt s.cyc.toNat }
  let s := groupResumes p r.queue s
  let lost := areaLost s b
  let s := if lost then s else (restoreContext s p b).onCore p Core.resumeLevel
  let s := match Store.find? s.extras b with
    | some e => { s with extras := Store.put s.extras b { e with left := Option.none } }
    | Option.none => s
  if lost then stopCore s p ⟨causeUncorrectable, 0, 0, false, 0⟩
  else match r.waits with
  | some banks => s.onCore p fun c => { c with run := .waiting, nextBanks := banks }
  | Option.none => contextRuns p s

/-- The core is free for a context. HALT leaves it stopped until the scheduler restarts it (R179), and no rule names the command that does: here a halted core is free again after a kill of its context (DESIGN CHOICE, log 83). -/
def Core.free (c : Core) : Bool := decide (c.run = .saved) || decide (c.run = .idle) || decide (c.run = .ended)

/-- RESUMPTION (R265): a saved context is restored on the core; the parked one comes by its own switch while another makes room for it. -/
def resumeStep (p : Nat) (s : State) : State :=
  let c := s.core p
  let waits (b : Nat) : Bool := c.outgoing.isSome && match c.parked with
    | some x => decide (x.2 = b)
    | Option.none => false
  match List.find? (fun e => !waits e.1) (resumable s p) with
  | Option.none => s
  | some (b, r) =>
    if c.free then
      let left (o : Option (Nat × Nat)) : Option (Nat × Nat) := match o with
        | some x => if x.2 = b then Option.none else some x
        | Option.none => Option.none
      resumeFrom p b r (s.setCore p { c with parked := left c.parked, outgoing := left c.outgoing })
    else s

def execResumption (p : Nat) (s : State) : Outcome State Fault Refusal := .next (resumeStep p s)

/-- PARKED_SWITCH (R12, R267): 64 cycles after the outgoing save has written VALID, the parked context's first bundle issues; the outgoing one is parked in its place. -/
def switchStep (p : Nat) (s : State) : State :=
  let c := s.core p
  match c.parked with
  | Option.none => s
  | some x => match List.find? (fun e => decide (e.1 = x.2)) (resumable s p) with
    | Option.none => s
    | some (b, r) =>
      if c.free && c.outgoing.isSome && decide (c.parkAt ≤ s.cyc.toNat) then
        issueStep p (resumeFrom p b r (s.setCore p { c with parked := c.outgoing, outgoing := Option.none }))
      else s

def execParkedSwitch (p : Nat) (s : State) : Outcome State Fault Refusal := .next (switchStep p s)

/-! ### Kill -/

/-- The cores that run a context. -/
def contextCores (s : State) (ctx : Nat) : List Nat :=
  s.cores.filterMap fun (p, c) => if decide (c.ctx.toNat = ctx) && decide (c.run ≠ .idle) && decide (c.run ≠ .saved) then some p else Option.none

/-- The activities of a context in states that `f` admits. -/
def ctxActs (s : State) (ctx : Nat) (f : ActState → Bool) : List Nat :=
  s.acts.filterMap fun (id, a) => if decide (a.ctx = ctx) && f a.state then some id else Option.none

/-- An activity of a killed context that still ran has failed; its records stay and none runs (R268). Those of one merged abandonment have failed together (R178). -/
def killActivities (ctx : Nat) (s : State) : State :=
  let runs := s.records.filter fun r => r.running && (actOf s ctx r.act).isSome
  let s := runs.foldl (fun s r => setRec s r.seq fun r => { r with running := false }) s
  let s := (ctxActs s ctx fun a => decide (a = .abandoning)).foldl (fun s id =>
    if actCode s ctx id = ActState.abandoning.code then
      failTogether s ((mergedSet s 256 [id]).filter fun k => (actOf s ctx k).isSome)
    else s) s
  (ctxActs s ctx ActState.live).foldl (fun s id => failTogether s [id]) s

/-- Every released operation of the context ends: fault 0x06 to its object, nothing else (R224, R268). The matched other end of a SEND or RECV, which may be another context's, stays outstanding, and one that had no match leaves its channel and counts for no place of the k-th there (DESIGN CHOICE, log 95: R230 ends both only where a link fails, and R268 speaks of the killed context alone). -/
def killOps (ctx : Nat) (s : State) : State :=
  let ks := s.ops.filterMap fun (k, o) => if o.ctx = ctx then some k else Option.none
  let s := ks.foldl (fun s k => match Store.find? s.ops k with
    | some o => dropOp (match o.object with
      | some loc => faultAt s (some ctx) (engineAgent o.origin.1) loc 6
      | Option.none => s) k o
    | Option.none => s) s
  let mine (q : Packet) : Bool := match q.source with
    | .send k _ | .redx k _ => ks.contains k
    | .foreign _ _ | .entry _ _ _ | .kept => false
  { s with
    quarantine := s.quarantine.map fun (e, l) => (e, l.filter fun q => !mine q)
    faults := s.faults.filter fun (_, f) => decide (f.ctx ≠ ctx)
    channels := s.channels.map fun (n, h) => (n, { h with
      sends := h.sends.filter fun k => !ks.contains k
      recvs := h.recvs.filter fun k => !ks.contains k }) }

/-- The save area of core `p` is without VALID: a kill has come during its save, or that of a trap which waits to be taken (R259, R268). -/
def invalidate (p : Nat) (s : State) : State :=
  let c := s.core p
  match saveLoc s c with
  | some base => if c.saveKind.isSome || c.sync.isSome then s.writeNat (base + 9) 1 (areaNat s base 9 1 &&& 0xFD) else s
  | none => s

/-- Whether an entry of the press's queue is a store of context `ctx`. -/
def TileOp.storeOf (ctx : Nat) : TileOp → Bool
  | .store e => decide (e.ctx = ctx)
  | _ => false

/-- The stores of a killed context that memory does not hold yet are performed nowhere, those of a core that has saved the context included (R268). -/
def Core.dropStores (c : Core) (ctx : Nat) : Core :=
  { c with
    heldStores := c.heldStores.filter fun e => decide (e.ctx ≠ ctx)
    opaq := c.opaq.filter fun o => !o.2.storeOf ctx }

/-- A core of a killed context stops: what is uncommitted or queued is gone (R268). -/
def killCore (p : Nat) (s : State) : State :=
  (invalidate p s).onCore p fun c =>
    { (c.discard.vacated .stopped) with opaq := c.opaq.filter (fun o => o.2.isStore), lateBrels := c.lateBrels }

/-- The agents whose tagged requests are those of cores `ps` (R143). -/
def requestSources (s : State) (ps : List Nat) : List Nat := ps.map s.source

/-- R268: the context's cores stop in this cycle; what is uncommitted or outstanding is discarded; the context is dead until the report. -/
def killContext (ctx : Nat) (s : State) : State :=
  if s.dead.contains ctx then s
  else
    let ps := contextCores s ctx
    let s := ps.foldl (fun s p => killCore p s) s
    let areas := s.extras.filterMap fun (b, e) => match e.left with
      | some r => if r.ctx.toNat = ctx then some b else Option.none
      | Option.none => Option.none
    let other (o : Option (Nat × Nat)) : Option (Nat × Nat) := o.filter fun x => decide (x.1 ≠ ctx)
    let s := { s with cores := Store.mapVals (fun _ c => { c.dropStores ctx with parked := other c.parked, outgoing := other c.outgoing }) s.cores }
    let s := s.cores.foldl (fun s e => flushCore e.1 s) s
    let s := killActivities ctx (killOps ctx { s with
      extras := s.extras.filter fun (b, _) => !areas.contains b
      heldArrivals := s.heldArrivals.filter fun h => decide (h.ctx ≠ some ctx) })
    let gone := requestSources s ps
    pump { s with
      dead := s.dead ++ [ctx]
      reqs := s.reqs.filterMap fun (n, r) =>
        let l := r.parts.filter fun q => !ps.contains q.core
        if l.isEmpty then Option.none else some (n, { r with parts := l })
      window := s.window.filter fun w => !gone.contains w.2.1
      waits := s.waits.filter fun w => !ps.contains w.core
      heldReports := s.heldReports.filter fun r => decide (r.1 ≠ ctx) }

/-- Whether the package presents a function: physical function 0 and VF 1 to 256 of the first host port, 257 of the second (R326), once service firmware has opened them (R333). -/
def State.presents (s : State) (fn : Nat) : Bool :=
  decide (s.stage = .ready) && (decide (fn ≤ 256) || (decide (fn = 257) && decide (2 ≤ s.hostPorts.length)))

/-- Whether a function is physical: it alone has the service mailbox and the ring doorbells (R326). -/
def State.physical (s : State) (fn : Nat) : Bool := s.presents fn && (decide (fn = 0) || decide (fn = 257))

/-- The endpoint of the host port that presents a function (R326). -/
def State.functionPort (s : State) (fn : Nat) : Nat := 24 + s.hostPorts.getD (if fn = 257 then 1 else 0) 0

/-- Whether a service command that comes this way is taken: in a VF a write of the mailbox is dropped, and the management port serves it only when service firmware has enabled that (R326, R335). -/
def mailboxTakes (v : Via) (s : State) : Bool :=
  match v with
  | .function fn => s.physical fn
  | .management => s.mailboxOpen && decide (s.stage = .ready)
  | .package => true

/-- A service command is journalled, acknowledged and applied; during a takeover its mailbox holds it (R286, R287). One that comes where no mailbox is does nothing (R326, R335). -/
def command (v : Via) (d : Nat) (i : Instr) (f : State → State) (s : State) : State :=
  let k := s.sched d
  if !mailboxTakes v s then s
  else if k.takeover then { s with scheds := Store.put s.scheds d { k with mailbox := k.mailbox ++ [i] } }
  else
    let s := journal d (.command k.journal.length) s
    f { s with outbox := s.outbox ++ [Out.acknowledged d i] }

/-- The die whose scheduler core takes a kill: that of the context's first task, else die 0 (R287; DESIGN CHOICE, log 82). -/
def killDie (s : State) (ctx : Nat) : Nat := match List.find? (fun (e : Nat × Task) => decide (e.2.ctx = ctx)) s.tasks with
  | some e => queueDie s e.1
  | Option.none => 0

/-- KILL (R268, R287): a service command. -/
def killStep (c : Via × Nat) (s : State) : State := command c.1 (killDie s c.2) (.kill c) (killContext c.2) s

def execKill (ctx : Via × Nat) (s : State) : Outcome State Fault Refusal := .next (killStep ctx s)

/-- The 16 bytes of a completion entry (R281): USER, then index and status, 4 bytes each (DEDUCED, log 60). -/
def RingEntry.bytes (e : RingEntry) : List Byte := toBytes 8 e.user.toNat ++ toBytes 4 e.index ++ toBytes 4 e.status

/-- Whether a ring is set up and has a place (Table 19.2). -/
def Ring.room (r : Ring) : Bool :=
  decide (4 ≤ r.log2) && decide (r.log2 ≤ 16) && decide ((r.taken + 2 ^ 32 - r.head) % 2 ^ 32 < 2 ^ r.log2)

/-- Entries that wait are formed, in egress quarantine of the function's host port, while the ring and the quarantine have room (R281, R313, R326). -/
def drainRing (fn : Nat) : Nat → State → State
  | 0, s => s
  | fuel + 1, s =>
    let r := Store.get Ring.none s.rings fn
    match r.waiting with
    | [] => s
    | e :: l =>
      let port := s.functionPort fn
      if r.room && decide ((Store.get [] s.quarantine port).length < 64) then
        drainRing fn fuel (putPacket port ⟨.entry fn e.vec (r.base + BitVec.ofNat 64 (16 * (r.taken % 2 ^ r.log2))), s.cyc.toNat, [e.region], false, e.bytes⟩
          { s with rings := Store.put s.rings fn { r with taken := (r.taken + 1) % 2 ^ 32, waiting := l } })
      else s

/-- A function's ring changed, after which entries that wait may be formed. -/
def onRing (fn : Nat) (f : Ring → Ring) (s : State) : State :=
  let r := f (Store.get Ring.none s.rings fn)
  drainRing fn r.waiting.length { s with rings := Store.put s.rings fn r }

/-- The completion entry of a task (R281, R326): it waits while the ring is full, or not set up. -/
def notify (fn : Nat) (e : RingEntry) (s : State) : State := onRing fn (fun r => { r with waiting := r.waiting ++ [e] }) s

/-- A task of queue `q` is over: its object, HEAD, the completion entry (R268, R281). -/
def finishTask (q : Nat) (t : Task) (status : Nat) (s : State) : State :=
  let s := match cvaLoc (firstCore s q) t.cva.toNat with
    | some loc =>
      let a := schedAgent (queueDie s q)
      if t.cva = 0 then s else if status = 0 then arriveAt s Option.none a loc else faultAt s Option.none a loc status
    | Option.none => s
  let s := journal (queueDie s q) (.completed q) s
  let s := setHead q ((s.queue q).head + 1) s
  let k := s.queue q
  let n := k.conf.group.toNat
  let g := s.group n
  let s := { s with
    tasks := Store.erase s.tasks q
    queues := Store.put s.queues q { k with running := false, candidates := k.candidates - 1 }
    groups := Store.put s.groups n { g with
      running := if g.running = some q then Option.none else g.running
      saved := g.saved.filter fun j => decide (j ≠ q)
      asked := if g.running = some q then Option.none else g.asked } }
  let s := if k.conf.ctl.getLsbD 1 && !t.noNotify then notify k.conf.func.toNat ⟨t.user, t.index, status, k.conf.vec.toNat, regionOf 0 (queueLoc s q)⟩ s else s
  refreshRunnable n s

/-- A task has ended with the status given: its completion follows those of the tasks of its die that ended before (R281, R286). -/
def taskEnded (status : Nat) (s : State) (q : Nat) : State :=
  let d := queueDie s q
  let k := s.sched d
  if k.ends.any fun e => decide (e.1 = q) then s else { s with scheds := Store.put s.scheds d { k with ends := k.ends ++ [(q, status)] } }

/-- Whether a link still has to carry flits of operations that have ended in a kill (R268 step 6, R328). -/
def orphanFlits (s : State) : Bool :=
  s.links.any fun (_, l) => l.unacked.any fun u => match u.2.1 with
    | .send k _ | .redx k _ => (Store.find? s.ops k).isNone
    | .foreign _ _ | .entry _ _ _ | .kept => false

/-- KILL_COMPLETE (R268): no request of the context is left, the report of a fault on an object whose row is being scrubbed and flits that a link may send again included; the mark is cleared, its cores and banks are free, its task has ended with status 6. -/
def killCompleteStep (ctx : Nat) (s : State) : State :=
  if !s.dead.contains ctx || s.ops.any (fun (_, o) => decide (o.ctx = ctx)) || s.moves.any (fun m => decide (m.ctx = ctx)) ||
      s.heldArrivals.any (fun h => decide (h.ctx = some ctx)) || orphanFlits s then s
  else
    let ps := contextCores s ctx
    let s := ps.foldl (fun s p => s.onCore p fun c => { c with run := .idle, ctx := 0 }) s
    let s := { s with dead := s.dead.filter fun k => decide (k ≠ ctx), outbox := s.outbox ++ [Out.killDone ctx] }
    (s.tasks.filterMap fun (q, t) => if t.ctx = ctx then some q else Option.none).foldl (taskEnded 6) s

def execKillComplete (ctx : Nat) (s : State) : Outcome State Fault Refusal := .next (killCompleteStep ctx s)

/-! ### The end of a task -/

/-- What a core that has reached its end still waits for (R180). -/
def endReady (s : State) (p : Nat) : Bool :=
  let c := s.core p
  c.pending.isNone && c.async.isEmpty && c.inserts.isEmpty && c.comp.isNone && c.grafts.isEmpty && c.value.isEmpty && c.opaq.isEmpty &&
    !c.restarting && !s.ops.any fun (_, o) => decide (o.core = p) && o.savedAt.isNone

/-- The core reports its end; the last one of the placement makes the task's end known (R180, R281). -/
def coreEnded (p : Nat) (s : State) : State :=
  let q := (s.core p).queue
  let s := s.onCore p fun c => { c.yieldBanks with run := .ended, preempt := .none, overran := Option.none }
  match Store.find? s.tasks q with
  | Option.none => s
  | some t =>
    if !t.cores.contains p then s
    else
      let t := { t with ended := t.ended ++ [p] }
      let s := { s with tasks := Store.put s.tasks q t }
      if t.cores.all t.ended.contains then taskEnded 0 s q
      else placementLeft q t s

/-- TASK_END (R180): the mark at the end address; then, with everything committed and completed, the banks and the report. -/
def endStep (p : Nat) (s : State) : State :=
  let c := s.core p
  if decide (c.run = .running) && c.sync.isNone && c.saveKind.isNone && !c.restarting && c.work.recov.isNone && atEnd s c then
    let s := s.until (c.turn s.cyc.toNat)
    if c.dataHeld s.cyc.toNat || (!c.atMark && c.markBlocked s.cyc.toNat) || (c.comp.isSome && !c.work.frames.any (·.inserted)) || c.work.opar.isSome then
      s.onCore p fun c => { c with turnAt := s.cyc.toNat + 1 }
    else (placeMark p s).onCore p fun c => { c with run := .ending }
  else if decide (c.run = .ending) && endReady s p then coreEnded p s
  else s

def execTaskEnd (p : Nat) (s : State) : Outcome State Fault Refusal := .next (endStep p s)

/-! ### Kicks and launch -/

/-- DOORBELL (R274, R326): a host's write of a queue number; a queue outside the function's partition is ignored and counted. A function that is not presented has no doorbell page. -/
def doorbellStep (fn q : Nat) (s : State) : State :=
  if !s.presents fn then s else
  let ok := match queuePartition s q with
    | some k => match s.parts[k]? with
      | some t => t.functions.contains fn
      | Option.none => false
    | Option.none => false
  if ok then { s with kicks := s.kicks ||| (1#4096 <<< q) }
  else
    let r := Store.get Ring.none s.rings fn
    countDie { s with rings := Store.put s.rings fn { r with doorbellErrors := r.doorbellErrors + 1 } } 0 2

def execDoorbell (fn q : Nat) (s : State) : Outcome State Fault Refusal := .next (doorbellStep fn q s)

/-- Whether FUNC names a function that the queue's partition has (R272). -/
def funcOk (s : State) (q : Nat) : Bool :=
  match queuePartition s q with
  | some k => match s.parts[k]? with
    | some t => t.functions.contains (s.queue q).conf.func.toNat
    | Option.none => false
  | Option.none => false

/-- KICK_SCAN (R274): the bit is cleared, then TAIL is read; a queue out of order is disabled, by a mark of the scheduler's own that a configuration takes away and that leaves CTL as it stands in the descriptor (DESIGN CHOICE, log 105), and reported (R272), and so is one whose TAIL is uncorrectable (DESIGN CHOICE, log 73). It waits while TAIL's row waits for its scrub (R310). -/
def scanStep (q : Nat) (s : State) : State :=
  let d := queueDie s q
  if !s.kicks.getLsbD q || (s.sched d).takeover || rowsWait s (queueLoc s q + 20) 4 then s
  else
    let s := journal d (.bit q) { s with kicks := s.kicks &&& ~~~(1#4096 <<< q) }
    let k := s.queue q
    if !k.conf.ctl.getLsbD 0 || k.disabled then s
    else
      let n := (s.readNat (queueLoc s q + 20) 4 + 2 ^ 32 - k.head.toNat) % 2 ^ 32
      if decide (2 ^ k.conf.log2n.toNat < n) || !funcOk s q || rowsLost s (queueLoc s q + 20) 4 then
        { s with queues := Store.put s.queues q { k with disabled := true }, outbox := s.outbox ++ [.queueFault q] }
      else refreshRunnable k.conf.group.toNat { s with queues := Store.put s.queues q { k with candidates := n } }

def execKickScan (q : Nat) (s : State) : Outcome State Fault Refusal := .next (scanStep q s)

/-- The locations of a record's argument block, word by word, those that can be told. -/
def argLocs (s : State) (q rec ctx : Nat) : List Nat :=
  let va := recNat s rec 8 8
  if va = 0 then [] else (List.range 16).filterMap fun w => (engLoc s (firstCore s q) ctx false (va + 8 * w) false).toOption

/-- The 16 argument words of a record: zero without a block (Table 16.3). A word of the block whose address cannot be translated or may not be read enters as 0 (DESIGN CHOICE, log 81: the rule gives 0 for ARGS = 0 alone, and says nothing of such a block). -/
def recArgs (s : State) (q rec ctx : Nat) : List Word :=
  let va := recNat s rec 8 8
  (List.range 16).map fun w =>
    if va = 0 then 0
    else match engLoc s (firstCore s q) ctx false (va + 8 * w) false with
      | .ok loc => BitVec.ofNat 64 (s.readNat loc 8)
      | .error _ => 0

/-- The state in which the core of logical index `k` enters the task (R17, R279). PROF is the image's; GOFF, which no row of Table 1.5 names, is clear (DESIGN CHOICE, log 81), and so are the eight comparators, which no row names either (DESIGN CHOICE, log 90). -/
def entryRegs (s : State) (q rec k n : Nat) (i : Image) (p : Nat) (old : Regs) : Regs :=
  let args := recArgs s q rec i.ctx
  let total := recTotal s rec
  let lo := k * total / n
  let args := if recNat s rec 50 1 = 0 then args
    else (args.set 14 (BitVec.ofNat 64 lo)).set 15 (BitVec.ofNat 64 ((k + 1) * total / n - lo))
  let words : List (Nat × Word) := ((List.range 16).map fun w => (w + 1, args.getD w 0)) ++
    [(17, BitVec.ofNat 64 k), (18, BitVec.ofNat 64 n), (19, BitVec.ofNat 64 (p / 8))]
  { Regs.reset with
    sc := words.filter fun e => decide (e.2 ≠ 0)
    seed := BitVec.ofNat 64 (recNat s rec 16 8)
    sridx := BitVec.ofNat 64 (recNat s rec 24 8)
    prof := i.prof
    pc := BitVec.ofNat 64 i.entry
    bno := old.bno + 1 }

/-- A task is delivered to a core (R279): the core waits for its banks. Its record and arguments are read as they stand in `s0`. SVEC, MODE and the save area are those that system software has set for the context (R17). TCAUSE, TPC and TINFO, which no row of Table 1.5 names, keep what the core's last trap left there (DESIGN CHOICE, log 90). -/
def deliver (s0 : State) (q rec run img k n m : Nat) (i : Image) (p : Nat) (s : State) : State :=
  s.onCore p fun c =>
    let r := entryRegs s0 q rec k n i p c.work
    { (c.vacated .waiting) with
      work := r
      mark := r
      com := r
      seg := Segment.opened r.pc false
      ctx := BitVec.ofNat 12 i.ctx
      save := (Store.find? c.areas i.ctx).getD c.save
      svec := (Store.find? s0.svecs i.ctx).getD c.svec
      hzd := ((Store.find? s0.modes i.ctx).map (·.getLsbD 0)).getD c.hzd
      sstep := ((Store.find? s0.modes i.ctx).map (·.getLsbD 1)).getD c.sstep
      bke := ((Store.find? s0.modes i.ctx).map (·.getLsbD 2)).getD c.bke
      lcore := BitVec.ofNat 64 k
      image := img
      queue := q
      sup := false
      bskip := false
      merged := false
      markAfter := false
      stated := run
      yields := 0
      turnAt := s.cyc.toNat + m
      nextBanks := i.banks
      delivered := s.cyc.toNat }

/-- HEAD passes a record that does not run: its object receives the fault, the queue goes on (R278, R279). -/
def passRecord (q rec code : Nat) (s : State) : State :=
  let va := recNat s rec 32 8
  let s := match cvaLoc (firstCore s q) va with
    | some loc => if va = 0 then s else faultAt s Option.none (schedAgent (queueDie s q)) loc code
    | Option.none => s
  let s := setHead q ((s.queue q).head + 1) (journal (queueDie s q) (.refusedRecord q) s)
  let k := s.queue q
  let n := k.conf.group.toNat
  let s := { s with queues := Store.put s.queues q { k with candidates := k.candidates - 1 } }
  refreshRunnable n { s with groups := Store.put s.groups n { s.group n with chosen := Option.none } }

/-- Whether what the scheduler reads of a record waits for a scrub, or is uncorrectable: the record, its dependence object, its arguments (R310). -/
def recRows (test : State → Nat → Nat → Bool) (s : State) (q rec : Nat) : Bool :=
  test s rec 128 ||
    (match cvaLoc (firstCore s q) (recNat s rec 40 8) with
      | some loc => decide (recNat s rec 40 8 ≠ 0) && test s loc 8
      | Option.none => false) ||
    match recImage s q rec with
    | some (_, i) => (argLocs s q rec i.ctx).any fun loc => test s loc 8
    | Option.none => false

/-- TASK_LAUNCH (R278, R279): the record at HEAD of the chosen queue is refused, skipped, or delivered to the group's clusters in ascending order. It waits for scrubs of what it reads; uncorrectable data there ends the record with 0x04, the code of R222 (R310; DESIGN CHOICE, log 73). -/
def launchStep (q : Nat) (s : State) : State :=
  let k := s.queue q
  let n := k.conf.group.toNat
  let g := s.group n
  if !(decide (g.chosen = some q) && g.running.isNone && !g.saved.contains q && launchable s q) || (s.sched g.die).takeover then s
  else match headRecord s q with
    | Option.none => refreshRunnable n { s with queues := Store.put s.queues q { k with disabled := true }, outbox := s.outbox ++ [.queueFault q] }
    | some rec =>
      if recRows rowsWait s q rec then s
      else if recRows rowsLost s q rec then passRecord q rec 4 s
      else if recRefused s q rec then passRecord q rec 5 s
      else match (recDepends s q rec).2, recImage s q rec with
        | some code, _ => passRecord q rec code s
        | Option.none, Option.none => s
        | Option.none, some (img, i) =>
          let cls := (List.range 80).filter g.clusters.contains
          let ps := cls.flatMap fun c => strided (8 * c) 1 8
          if !ps.all fun p => (s.core p).free then s
          else
            let s := journal g.die (.launched q) s
            let run := recRun s rec
            let t : Task := ⟨q, ps, [], [], i.ctx, BitVec.ofNat 64 (recNat s rec 32 8), BitVec.ofNat 64 (recNat s rec 88 8),
              k.head.toNat, decide (recNat s rec 51 1 = 1), false, 0⟩
            let s' := ps.zipIdx.foldl (fun a (p, j) => deliver s q rec run img j ps.length (j / 8) i p a) s
            journal g.die (.started q) { s' with
              tasks := Store.put s'.tasks q t
              queues := Store.put s'.queues q { k with running := true }
              groups := Store.put s'.groups n { g with
                running := some q
                chosen := Option.none
                yields := 0
                asked := Option.none
                nextRun := Store.put g.nextRun q run } }

def execTaskLaunch (q : Nat) (s : State) : Outcome State Fault Refusal := .next (launchStep q s)

/-- TASK_COMPLETION (R268, R281, R286): of the task of group `n` that ended first of its die's, not during a takeover. -/
def completionStep (n : Nat) (s : State) : State :=
  let d := (s.group n).die
  let k := s.sched d
  match k.ends with
  | [] => s
  | (q, status) :: l =>
    if k.takeover || decide ((s.queue q).conf.group.toNat ≠ n) then s
    else
      let s := { s with scheds := Store.put s.scheds d { k with ends := l } }
      match Store.find? s.tasks q with
      | some t => finishTask q t status s
      | Option.none => s

def execTaskCompletion (group : Nat) (s : State) : Outcome State Fault Refusal := .next (completionStep group s)

/-! ### Service commands -/

/-- SCHEDULER_TAKEOVER (R286): the active core fails and the standby takes over; the second step ends the takeover: the journal is replayed, every owned queue is looked at again, held commands follow. -/
def takeoverStep (d : Nat) (s : State) : State :=
  let k := s.sched d
  if k.takeover then
    let owned (q : Nat) : Bool := decide (queueDie s q = d)
    { s with
      kicks := s.queues.foldl (fun b (q, _) => if owned q then b ||| (1#4096 <<< q) else b) s.kicks
      scheds := Store.put s.scheds d { k with takeover := false, mailbox := [] }
      agenda := k.mailbox ++ s.agenda }
  else if k.standbyReady then { s with scheds := Store.put s.scheds d { k with takeover := true, standbyReady := false } }
  else s

def execSchedulerTakeover (die : Nat) (s : State) : Outcome State Fault Refusal := .next (takeoverStep die s)

/-- The descriptor as a configuration leaves it (Table 16.1): HEAD and PASS as the scheduler keeps them, TAIL as the producer left it, reserved bytes zero. -/
def writeQueue (q : Nat) (f : QueueConf) (s : State) : State :=
  let b := queueLoc s q
  let k := s.queue q
  s.writeBytes (bytesAt b (toBytes 8 f.ring.toNat ++ toBytes 1 f.log2n.toNat ++ toBytes 1 (f.ctl.toNat % 4) ++ toBytes 2 f.tickets.toNat ++
    toBytes 2 f.group.toNat ++ toBytes 2 f.vec.toNat ++ toBytes 4 k.head.toNat) ++
    bytesAt (b + 24) (toBytes 8 k.pass.toNat ++ toBytes 2 f.func.toNat ++ toBytes 30 0))

/-- QUEUE_CONFIGURATION (R272, R287): of one of the 4,096 queues, in one of the groups 0 to 79. -/
def queueConfStep (v : Via × Nat) (f : QueueConf) (s : State) : State :=
  let q := v.2
  command v.1 (s.group f.group.toNat).die (.queueConfiguration v f) (fun s =>
    let k := s.queue q
    if decide (4096 ≤ q) || decide (80 ≤ f.group.toNat) then s
    else refreshRunnable k.conf.group.toNat (refreshRunnable f.group.toNat
      (writeQueue q f { s with queues := Store.put s.queues q { k with conf := f, disabled := false } }))) s

def execQueueConfiguration (q : Via × Nat) (conf : QueueConf) (s : State) : Outcome State Fault Refusal := .next (queueConfStep q conf s)

/-- A slice, and a hard pre-emption wait, within their ranges (R273). -/
def sliceIn (n : Nat) : Nat := Nat.max 65536 (Nat.min n (2 ^ 24))
def hpeIn (n : Nat) : Nat := Nat.max 4096 (Nat.min n (2 ^ 24))

/-- Whether clusters may form group `n`: whole clusters of one partition, which has no retired one, and no other group's (R273, R327). -/
def groupOk (s : State) (n : Nat) (clusters : List Nat) : Bool :=
  (match clusters with
    | [] => false
    | c :: l => (partitionOf s c).isSome && l.all fun d => decide (partitionOf s d = partitionOf s c)) &&
    s.groups.all fun (k, g) => decide (k = n) || !g.clusters.any clusters.contains

/-- GROUP_CONFIGURATION (R273, R282): a slice is remembered within its range, and begins anew. Clusters that may not form a group change nothing (R273, R327; DESIGN CHOICE, log 96: no rule says what becomes of such a command). -/
def groupConfStep (v : Via × Nat) (clusters : List Nat) (slice hpe : Nat) (s : State) : State :=
  let n := v.2
  command v.1 (clusters.foldl Nat.min (clusters.headD 0) / 20) (.groupConfiguration v clusters slice hpe) (fun s =>
    let sl := sliceIn slice
    if !groupOk s n clusters then s else
    { s with groups := Store.put s.groups n { s.group n with
        clusters := clusters
        slice := sl
        hpe := hpeIn hpe
        r := sl } }) s

def execGroupConfiguration (group : Via × Nat) (clusters : List Nat) (slice hpe : Nat) (s : State) : Outcome State Fault Refusal :=
  .next (groupConfStep group clusters slice hpe s)

/-- A refused solera command (R271). -/
def refuseAct (id : Nat) (s : State) : State := { s with outbox := s.outbox ++ [.commandRefused id] }

/-- RETRY (R271): refused when an activity that failed with this one is FAILED no more. -/
def retryStep (v : Via × Nat) (s : State) : State :=
  let id := v.2
  command v.1 0 (.retry v) (fun s => let s := answerAll s; match Store.find? s.acts id with
    | some a =>
      if a.state = .failed then
        let hit (b : Activity) : Bool := decide (b.state = .failed) && decide (b.merged = a.merged)
        if s.acts.countP (fun e => hit e.2) = a.mates then
          pump { s with acts := s.acts.map fun (k, b) => if hit b then (k, { b with state := .abandoning }) else (k, b) }
        else refuseAct id s
      else refuseAct id s
    | Option.none => refuseAct id s) s

def execRetry (act : Via × Nat) (s : State) : Outcome State Fault Refusal := .next (retryStep act s)

/-- DISCARD (R271). -/
def discardStep (v : Via × Nat) (s : State) : State :=
  let id := v.2
  command v.1 0 (.discard v) (fun s => let s := answerAll s; match Store.find? s.acts id with
    | some a => if a.state = .failed then retire { s with acts := Store.erase s.acts id } id else refuseAct id s
    | Option.none => refuseAct id s) s

def execDiscard (act : Via × Nat) (s : State) : Outcome State Fault Refusal := .next (discardStep act s)

/-- ABANDON (R271): all the ids, or none. -/
def abandonStep (v : Via × List Nat) (s : State) : State :=
  let ids := v.2
  command v.1 0 (.abandon v) (fun s =>
    let as := ids.mapM fun id => Store.find? s.acts id
    match as with
    | some (a :: l) =>
      if (a :: l).all fun b => b.state.live && decide (b.ctx = a.ctx) then
        let r := abandonSet s ids a.cause
        if r.2.isSome then refuseAct (ids.headD 0) s else r.1
      else refuseAct (ids.headD 0) s
    | _ => refuseAct (ids.headD 0) s) s

def execAbandon (acts : Via × List Nat) (s : State) : Outcome State Fault Refusal := .next (abandonStep acts s)

/-- REDUCTION_GROUP_CONFIG (R331): at most 1,024 groups, 2 to 4,096 ranks, a core once. -/
def redxConfStep (v : Via × Nat) (ranks : List Nat) (s : State) : State :=
  let h := v.2
  command v.1 0 (.reductionGroupConfig v ranks) (fun s =>
    let room := decide (s.redGroups.length < 1024) || (Store.find? s.redGroups h).isSome
    if room && decide (2 ≤ ranks.length) && decide (ranks.length ≤ 4096) && decide (ranks.eraseDups = ranks) then
      { s with redGroups := Store.put s.redGroups h ⟨ranks, [], 0, false, []⟩ }
    else s) s

def execReductionGroupConfig (handle : Via × Nat) (ranks : List Nat) (s : State) : Outcome State Fault Refusal :=
  .next (redxConfStep handle ranks s)

/-- CHANNEL_CONFIG (R331). -/
def channelConfStep (v : Via × Nat) (sender receiver : Nat) (s : State) : State :=
  let ch := v.2
  command v.1 0 (.channelConfig v sender receiver) (fun s =>
    if ch < 4096 then { s with channels := Store.put s.channels ch ⟨sender, receiver, [], [], 0, []⟩ } else s) s

def execChannelConfig (channel : Via × Nat) (sender receiver : Nat) (s : State) : Outcome State Fault Refusal :=
  .next (channelConfStep channel sender receiver s)

/-- MAPOUT (R322): calls already released complete; later ones run as bodies (R38). -/
def mapoutStep (v : Via × Nat) (unit : Nat) (s : State) : State :=
  let d := v.2
  command v.1 0 (.mapout v unit) (fun s =>
    let l := s.lifeOf d
    { s with life := Store.put s.life d { l with mappedOut := (l.mappedOut ++ [unit]).eraseDups } }) s

def execMapout (die : Via × Nat) (unit : Nat) (s : State) : Outcome State Fault Refusal := .next (mapoutStep die unit s)

end Sys2Proof.Machine
end

