-- ==== Sys2Proof/Machine/TransEvents.lean ====
section
/-! DEFINITION. The steps of translation: shootdowns, translation faults and their answers, page moves, the requests of foreign agents (R288 to R307). -/

namespace Sys2Proof.Machine

open Host (Outcome)

/-! ### Shootdowns -/

/-- The page size of an SZ code (Table 17.5). -/
def pageSize (sz : Nat) : Nat :=
  match sz with
  | 0 => 4096
  | 1 => 0x200000
  | _ => 0x40000000

/-- A command enters the package's shootdown order (R296). -/
def requestShootdown (d : Shootdown) (s : State) : State := { s with shootdowns := s.shootdowns ++ [d] }

def execShootdownPage (ctx sz : Nat) (va cva : Word) (s : State) : Outcome State Fault Refusal :=
  .next (requestShootdown ⟨0, ctx, va.toNat / pageSize sz * pageSize sz, pageSize sz, cva⟩ s)

def execShootdownRange (ctx : Nat) (va : Word) (len : Nat) (cva : Word) (s : State) : Outcome State Fault Refusal :=
  .next (requestShootdown ⟨1, ctx, va.toNat, 4096 * len, cva⟩ s)

def execShootdownContext (ctx : Nat) (cva : Word) (s : State) : Outcome State Fault Refusal :=
  .next (requestShootdown ⟨2, ctx, 0, 0, cva⟩ s)

def execShootdownAll (cva : Word) (s : State) : Outcome State Fault Refusal := .next (requestShootdown ⟨3, 0, 0, 0, cva⟩ s)

/-- Whether a cached entry maps a VA of the command's range for its context (R297). -/
def Shootdown.covers (d : Shootdown) (e : TlbEntry) : Bool :=
  match d.kind with
  | 2 => decide (e.ctx = d.ctx)
  | 3 => true
  | _ => decide (e.ctx = d.ctx) && overlap e.va e.size d.va d.len

/-- Whether a cached partial walk leads to a VA of the command's range for its context (R297). -/
def Shootdown.coversWalk (d : Shootdown) (e : WalkEntry) : Bool :=
  match d.kind with
  | 2 => decide (e.ctx = d.ctx)
  | 3 => true
  | _ => decide (e.ctx = d.ctx) && overlap e.va (tableSpan e.level) d.va d.len

/-- What the engines hold of contexts, after a command: for kinds 2 and 3 their copies go (R289, R296). -/
def Shootdown.dropCopies {α : Type} (d : Shootdown) (m : Store α) : Store α :=
  match d.kind with
  | 2 => Store.erase m d.ctx
  | 3 => []
  | _ => m

/-- The translation buffers and walk caches drop entries, and the engines their copies of segments and ROOT for kinds 2 and 3 (R289, R296, R297). -/
def dropTranslations (d : Shootdown) (s : State) : State :=
  { s with
    tlb := s.tlb.filter fun e => !d.covers e
    walks := s.walks.filter fun e => !d.coversWalk e
    engSegs := d.dropCopies s.engSegs
    engRoots := d.dropCopies s.engRoots }

/-- A place in the journal region of a die, once system software has reserved one (R285, R296, R301). The region begins with the journal's 256 KiB, whose entries the spec does not lay out; then come the shootdown ring and the fault ring (DESIGN CHOICE, log 71). -/
def regionAt (s : State) (die off : Nat) : Option Nat := (Store.find? s.regions die).map fun b => cellarLoc die (b + off)
def shootdownRing : Nat := 0x40000
def faultRing : Nat := 0x42000

/-- A command of a die's ring is taken (Table 17.5): one of a reserved kind is dropped and counted (R296, R335), and so is one that is uncorrectable (R310, log 73). -/
def takeCommand (die loc : Nat) (s : State) : State :=
  let ctx := s.readNat loc 2
  let kind := s.readNat (loc + 2) 1
  let sz := pageSize (s.readNat (loc + 3) 1)
  let va := s.readNat (loc + 8) 8
  let cva := BitVec.ofNat 64 (s.readNat (loc + 24) 8)
  if rowsLost s loc 32 then countDie s die 3
  else match kind with
  | 0 => requestShootdown ⟨0, ctx, va / sz * sz, sz, cva⟩ s
  | 1 => requestShootdown ⟨1, ctx, va, 4096 * s.readNat (loc + 16) 8, cva⟩ s
  | 2 => requestShootdown ⟨2, ctx, 0, 0, cva⟩ s
  | 3 => requestShootdown ⟨3, 0, 0, 0, cva⟩ s
  | _ => countDie s die 3

/-- The commands of a die's ring that a new tail adds, of the 256 that the ring holds (R296). -/
def newCommands (s : State) (die tail : Nat) : List Nat :=
  match regionAt s die shootdownRing with
  | none => []
  | some ring =>
    let head := Store.get 0 s.ringHeads die
    (List.range (Nat.min 256 ((tail + 2 ^ 32 - head) % 2 ^ 32))).map fun k => ring + 32 * ((head + k) % 256)

/-- The ring's doorbell word takes a new tail: the commands up to it enter the order (R296). -/
def shootdownDoorbell (die tail : Nat) (s : State) : State :=
  if (regionAt s die shootdownRing).isNone then s
  else (newCommands s die tail).foldl (fun s loc => takeCommand die loc s)
    { s with ringHeads := Store.put s.ringHeads die (tail % 2 ^ 32) }

/-- SHOOTDOWN_COMPLETE (R297): the oldest command completes; its object, where it names one, sees an arrival. Every access of the model that used an entry has been performed (log 13). -/
def shootdownStep (s : State) : State :=
  match s.shootdowns with
  | [] => s
  | d :: l =>
    let s := dropTranslations d { s with shootdowns := l }
    match if d.cva = 0 then none else cvaLoc 0 d.cva.toNat with
    | some loc => arriveAt s Option.none (schedAgent 0) loc
    | none => s

def execShootdownComplete (s : State) : Outcome State Fault Refusal := .next (shootdownStep s)

/-! ### Translation faults -/

/-- A translation fault of an operation: its element, the VA of its page, whether permission is missing, whether it is of a write (R301, Table 17.8). -/
structure PagedFault where
  elem : Nat
  page : Nat
  perm : Bool
  write : Bool
  deriving DecidableEq, Repr

/-- The first of the elements given, with their addresses, that meets a translation fault. -/
def firstPaged (s : State) (o : EngineOp) (l : List (Nat × Nat)) (n : Nat) (write : Bool) : Option PagedFault :=
  l.findSome? fun (t, va) => match o.locs s va n write with
    | .error (.paged page perm) => some ⟨t, page, perm, write⟩
    | _ => none

/-- Whether an operation has come to its translation faults: a CPYT first ends at an earlier row that met an error of another kind (R148), and one whose fault has been declined meets no further one (R302). -/
def pagedFirst (s : State) (o : EngineOp) : Bool :=
  match o.cmd.kind with
  | .cpyt => match firstError (copyElems s o) with
    | some (_, .paged _ _) => true
    | _ => false
  | .pref => false
  | _ => o.limit.isNone

/-- The first element of an operation, in its order, that meets a translation fault; of one element its source comes first. -/
def pagedFault (s : State) (o : EngineOp) : Option PagedFault :=
  let a := firstPaged s o o.cmd.sources o.cmd.sourceSize false
  let b := firstPaged s o o.cmd.dests (descEsize o.cmd.desc) true
  if !pagedFirst s o then none
  else match a, b with
    | some x, some y => if x.elem ≤ y.elem then a else b
    | some _, none => a
    | none, _ => b

/-- The entries of a die's fault ring by number: 1,024 of them (R301). -/
def faultKey (die entry : Nat) : Nat := 1024 * die + entry % 1024

/-- Operation `k` in a stage. -/
def setStage (k : Nat) (st : OpStage) (s : State) : State :=
  { s with ops := s.ops.map fun (j, o) => if j = k then (j, { o with stage := st }) else (j, o) }

/-- The 32 bytes of an entry as it stands in the ring (Table 17.8). -/
def FaultEntry.bytes (e : FaultEntry) : List Byte :=
  toBytes 8 e.va ++ toBytes 2 e.ctx ++ toBytes 1 (e.access + 4 * bit e.permission) ++ toBytes 1 0 ++ toBytes 2 e.core ++ toBytes 18 0

/-- The place of an entry in the ring of its die. -/
def faultLoc (s : State) (key : Nat) : Option Nat := regionAt s (key / 1024) (faultRing + 32 * (key % 1024))

/-- A new entry stands in the ring of its die, where system software reads it. -/
def putFault (key : Nat) (e : FaultEntry) (s : State) : State :=
  let s := { s with faults := Store.put s.faults key e }
  match faultLoc s key with
  | some loc => s.writeBytes (bytesAt loc e.bytes)
  | none => s

/-- TRANSLATION_FAULT (R301): the operation is held; one entry stands for each context, page and access kind, and a full ring makes the fault wait, as a row of the ring does that waits for its scrub (R310). A lookup that met entries of two sizes is counted (R299). -/
def translationStep (k : Nat) (s : State) : State :=
  match Store.find? s.ops k with
  | none => s
  | some o =>
    if o.stage ≠ .running then s
    else match pagedFault s o with
      | none => s
      | some f =>
        let row := o.cmd.rowOf f.elem
        let same (e : Nat × FaultEntry) : Bool := decide (e.2.ctx = o.ctx) && decide (e.2.va = f.page) && decide (e.2.access = bit f.write)
        let die := dieOf o.origin.1
        let s' := if multiHit s o.ctx f.page then countDie s die 0 else s
        match List.find? same s.faults with
        | some (key, e) => setStage k .held { s' with faults := Store.put s.faults key { e with ops := e.ops ++ [(k, row)] } }
        | none =>
          match Store.freeKey (Store.range s.faults (faultKey die 0) (faultKey die 0 + 1024)) 1024 (faultKey die 0) with
          | none => s
          | some key => if (faultLoc s key).any fun loc => rowsWait s loc 32 then s else setStage k .held (putFault key ⟨f.page, o.ctx, bit f.write, f.perm, o.origin.1, [(k, row)], s.cyc.toNat⟩ s')

def execTranslationFault (op : Nat) (s : State) : Outcome State Fault Refusal := .next (translationStep op s)

/-- What the translation buffers hold for a VA of a context is passed over: the next lookup walks the tables (R302). -/
def forgetVA (ctx va : Nat) (s : State) : State :=
  { s with
    tlb := s.tlb.filter fun e => !(decide (e.ctx = ctx) && decide (e.va ≤ va) && decide (va < e.va + e.size))
    walks := s.walks.filter fun e => !(decide (e.ctx = ctx) && decide (e.va ≤ va) && decide (va < e.va + tableSpan e.level)) }

/-- FAULT_RETRY (R302): the held requests walk again, so that an entry which still lacks an added permission is used no more (R298). -/
def retryFault (die entry : Nat) (s : State) : State :=
  match Store.find? s.faults (faultKey die entry) with
  | none => s
  | some e => forgetVA e.ctx e.va
    (e.ops.foldl (fun s q => setStage q.1 .running s) { s with faults := Store.erase s.faults (faultKey die entry) })

def execFaultRetry (die entry : Nat) (s : State) : Outcome State Fault Refusal := .next (retryFault die entry s)

/-- Operation `k` ends with the code given as soon as what comes before it on its core is performed: a CPYT once its rows below `row` are written (R135, R148, R302). -/
def declineOp (k row code : Nat) (s : State) : State :=
  { s with ops := s.ops.map fun (j, o) => if j = k then (j, { o with stage := .running, limit := some (row, code) }) else (j, o) }

/-- FAULT_DECLINE (R302): the operations fault with 0x02 for not-present, 0x03 for permission. -/
def declineFault (die entry : Nat) (s : State) : State :=
  match Store.find? s.faults (faultKey die entry) with
  | none => s
  | some e =>
    e.ops.foldl (fun s q => declineOp q.1 q.2 (if e.permission then 3 else 2) s) { s with faults := Store.erase s.faults (faultKey die entry) }

def execFaultDecline (die entry : Nat) (s : State) : Outcome State Fault Refusal := .next (declineFault die entry s)

/-- The fault ring's doorbell word takes an entry's index: its STATUS is the answer (R302, Table 17.8); an uncorrectable one is none (R310, log 73). -/
def faultDoorbell (die entry : Nat) (s : State) : State :=
  match faultLoc s (faultKey die entry) with
  | none => s
  | some loc =>
    if s.isPoisoned (loc + 11) then s
    else match s.readNat (loc + 11) 1 with
      | 1 => retryFault die entry s
      | 2 => declineFault die entry s
      | _ => s

/-- The answer time of a die's fault entries, in cycles (R302). -/
def State.ftoOf (s : State) (die : Nat) : Nat := Store.get (2 ^ 24) s.fto die

/-- FAULT_TIMEOUT (R302): an entry unanswered after FTO cycles is declined. -/
def timeoutFault (die entry : Nat) (s : State) : State :=
  match Store.find? s.faults (faultKey die entry) with
  | none => s
  | some e => if e.since + s.ftoOf die ≤ s.cyc.toNat then declineFault die entry s else s

def execFaultTimeout (die entry : Nat) (s : State) : Outcome State Fault Refusal := .next (timeoutFault die entry s)

/-! ### Page moves -/

/-- The bytes of a page copied to another frame: what stands in the target goes; uncorrectable granules stay so; zero blocks are copied as zeros (R303, R307). -/
def copyPage (src dst size : Nat) (s : State) : State :=
  let inside (a : Nat) : Bool := decide (dst ≤ a) && decide (a < dst + size)
  let moved := (s.mem.filter fun (a, _) => decide (src ≤ a) && decide (a < src + size)).map fun (a, b) => (dst + (a - src), b)
  let bad := (s.poisoned.filter fun g => decide (src ≤ g) && decide (g < src + size)).flatMap fun g =>
    (List.range (granule g)).map fun k => granuleBase (dst + (g + k - src))
  { s with
    mem := Memory.write (s.mem.filter fun (a, _) => !inside a) moved
    poisoned := (s.poisoned.filter fun g => !inside g) ++ bad.eraseDups
    zeroBlocks := s.zeroBlocks.filter fun z => !inside z && !(decide (src ≤ z) && decide (z < src + size)) }

/-- A page's translations are dropped in the whole package (R303 step 6). -/
def dropPage (ctx va size : Nat) (s : State) : State := dropTranslations ⟨0, ctx, va, size, 0⟩ s

/-- The page counts as arrived for its operation. -/
def markArrived (m : PageMove) (s : State) : State :=
  { s with ops := s.ops.map fun (j, o) => if j = m.op then (j, { o with arrived := o.arrived ++ [m.va] }) else (j, o) }

/-- Whether a frame lies on a device that has failed (R325). -/
def frameFailed (s : State) (pa n : Nat) : Bool := deviceFailed s pa || deviceFailed s (pa + (n - 1))

/-- Atomics of a peer that have come for a page act on the frame that it has moved to, where its single current value is (R303, R328). -/
def moveRequests (m : PageMove) (pa : Nat) (s : State) : State :=
  { s with reqs := s.reqs.map fun (n, r) =>
      if r.parts.all (fun q => isPeer q.core) && decide (m.source ≤ r.loc) && decide (r.loc < m.source + m.size) then
        (n, { r with loc := pa + (r.loc - m.source) })
      else (n, r) }

/-- Steps 3 to 6 of R303: the contents are copied and the PTE swapped if it still stands; else the move is abandoned, counted in MCONF, and the page counts as arrived. A page on a failed device is not copied, and a target frame there is given up for another one (R325). -/
def swapPage (m : PageMove) (pa : Nat) (s : State) : State :=
  let rest := s.moves.filter fun q => decide (q ≠ m)
  if frameFailed s m.source m.size then s
  else if frameFailed s pa m.size then { s with moves := rest ++ [{ m with target := none }] }
  else if s.readNat m.pte 8 = m.word then
    let s := moveRequests m pa (copyPage m.source pa m.size s)
    let s := s.writeNat m.pte 8 (setBits (setBits m.word 12 40 (pa / 4096)) 4 2 0)
    dropPage m.ctx m.va m.size { s with moves := rest ++ [{ m with moved := true }] }
  else markArrived m (bumpContext m.ctx 0x00C (giveFrame { s with moves := rest } pa m.size))

/-- The frames of the target tier's pool that a page may take: those whose device has not failed (R303, R325). -/
def freeFrames (s : State) (m : PageMove) : List Nat :=
  (Store.get [] s.pools (poolKey (1 - tierOf m.source) m.size)).filter fun pa => !frameFailed s pa m.size

/-- Step 2 of R303: a frame from the target tier's pool; an empty pool makes the page wait. -/
def takeFrame (m : PageMove) (s : State) : State :=
  let k := poolKey (1 - tierOf m.source) m.size
  match freeFrames s m with
  | [] => s
  | pa :: _ =>
    { s with
      pools := Store.put s.pools k ((Store.get [] s.pools k).erase pa)
      moves := s.moves.map fun q => if q = m then { m with target := some pa } else q }

/-- Step 1 of R303: MIG is set in the next page's leaf. -/
def beginMove (k : Nat) (o : EngineOp) (s : State) : State :=
  let due (l : Leaf) : Bool := decide (tierOf l.pa ≠ bit (o.cmd.f.getLsbD 0)) && !l.mig && !o.arrived.contains l.va && !frameFailed s l.pa l.size
  match (migrLeaves s o.ctx o.cmd).find? due with
  | none => s
  | some l =>
    let x := s.readNat l.pte 8 + 32
    let m : PageMove := ⟨k, o.origin.1, o.ctx, l.va, l.size, l.pte, x, l.pa, none, o.cmd.b.toNat, false⟩
    let s := s.writeNat l.pte 8 x
    takeFrame m { s with moves := s.moves ++ [m] }

/-- PAGE_MOVE (R303, R307): a move that has its frame is finished; else a waiting one takes a frame; else the next page begins. -/
def pageMoveStep (k : Nat) (s : State) : State :=
  let mine (m : PageMove) : Bool := decide (m.op = k) && !m.moved
  let ready := s.moves.findSome? fun m => if mine m then m.target.map fun pa => (m, pa) else none
  let waiting := s.moves.find? fun m => mine m && m.target.isNone && !(freeFrames s m).isEmpty
  match ready, waiting with
  | some (m, pa), _ => swapPage m pa s
  | none, some m => takeFrame m s
  | none, none => match Store.find? s.ops k with
    | some o => if decide (o.cmd.kind = .migr) && decide (o.stage = .running) then beginMove k o s else s
    | none => s

def execPageMove (op : Nat) (s : State) : Outcome State Fault Refusal := .next (pageMoveStep op s)

/-- PAGE_ARRIVAL (R303 step 7, R304): the source frame goes to the source pool; a late page counts in SLIP and in the die's slip counter. -/
def pageArrivalStep (k : Nat) (s : State) : State :=
  match s.moves.find? fun m => decide (m.op = k) && m.moved with
  | none => s
  | some m =>
    let s := giveFrame { s with moves := s.moves.filter fun q => decide (q ≠ m) } m.source m.size
    countSlip m.core m.ctx m.deadline (markArrived m s)

def execPageArrival (op : Nat) (s : State) : Outcome State Fault Refusal := .next (pageArrivalStep op s)

/-- FRAME_POOL_FILL (R303): free, size-aligned frames of the tier join its pool. -/
def framePoolStep (tier sz : Nat) (frames : List Nat) (s : State) : State :=
  let n := pageSize sz
  let good (pa : Nat) : Bool := decide (pa % n = 0) && decide (tierOf pa = tier) && backedPA s.cxlSize pa && backedPA s.cxlSize (pa + (n - 1))
  (frames.filter good).foldl (fun s pa => giveFrame s pa n) s

def execFramePoolFill (tier size : Nat) (frames : List Nat) (s : State) : Outcome State Fault Refusal := .next (framePoolStep tier size frames s)

/-! ### Foreign agents -/

/-- The 8-byte words of a table that hold anything: index and value. -/
def tableWords (s : State) (table : Nat) : List (Nat × Nat) :=
  let ks := ((Store.range s.mem table (table + 4096)).map fun (a, _) => (a - table) / 8).eraseDups
  ks.map fun k => (k, s.readNat (table + 8 * k) 8)

/-- Every leaf below a table of level `level` that maps from `va` on (R292). -/
def tableLeaves (s : State) : Nat → Nat → Nat → Nat → List Leaf
  | 0, _, _, _ => []
  | fuel + 1, level, table, va =>
    (tableWords s table).flatMap fun (k, x) =>
      let v := va + k * levelSize level
      match pteLeaf s.cxlSize level (table + 8 * k) v x with
      | some l => [l]
      | none => match pteTable s.cxlSize level x with
        | some t => tableLeaves s fuel (level + 1) t v
        | none => []

/-- The contexts whose context-table entries hold anything. -/
def listedContexts (s : State) : List Nat :=
  ((Store.range s.mem s.ctbase.toNat (s.ctbase.toNat + 0x1000000)).map fun (a, _) => (a - s.ctbase.toNat) / 4096).eraseDups

/-- The leaves of every context, each with its context. -/
def allLeaves (s : State) : List (Nat × Leaf) :=
  (listedContexts s).flatMap fun ctx =>
    let root := s.readNat (ctxEntry s ctx) 8
    if decide (root = 0) || decide (root % 4096 ≠ 0) || !backedPA s.cxlSize root then [] else (tableLeaves s 4 0 root 0).map fun l => (ctx, l)

/-- The compressed pages that a range of physical addresses touches. -/
def compressedPages (s : State) (pa n : Nat) : List (Nat × Leaf) :=
  (allLeaves s).filter fun (_, l) => l.cmp && overlap l.pa l.size pa n

/-- R306: zeros are written into every zero block of the page, CMP is cleared in its PTE and its translations are dropped; a move in progress follows the new PTE (R307). A PTE that several contexts share is cleared once. -/
def expandPage (s : State) (e : Nat × Leaf) : State :=
  let l := e.2
  let blocks := s.zeroBlocks.filter fun z => decide (l.pa ≤ z) && decide (z < l.pa + l.size)
  let zero (a : Nat) : Bool := blocks.contains (a / 256 * 256)
  let x := s.readNat l.pte 8
  let follow (m : PageMove) : PageMove := if m.pte = l.pte ∧ m.word = x ∧ x.testBit 4 = true then { m with word := x - 16 } else m
  let s := { s with
    mem := s.mem.filter fun (a, _) => !zero a
    zeroBlocks := s.zeroBlocks.filter fun z => !blocks.contains z
    moves := s.moves.map follow }
  dropPage e.1 l.va l.size (s.writeNat l.pte 8 (if x.testBit 4 then x - 16 else x))

/-- Whether a range lies in one cellar below its solera reserve: where hosts write task records and TAIL (R272, R275; DEDUCED, log 96). -/
def cellarSpan (loc n : Nat) : Bool :=
  let o := loc - (sramBase + 2 ^ 33)
  decide (sramBase + 2 ^ 33 ≤ loc) && decide (o < 2 ^ 28) && decide (o % 2 ^ 26 + n ≤ 0x2E00000)

/-- Whether a foreign agent's range is backed and its device has not failed (R288, R325), or lies in a cellar. -/
def foreignRange (s : State) (pa n : Nat) : Bool :=
  decide (0 < n) && ((backedPA s.cxlSize pa && backedPA s.cxlSize (pa + (n - 1)) && !frameFailed s pa n) || cellarSpan pa n)

/-- Where the home finds a byte of a page that a MIGR has copied and whose translations are dropped, but which has not arrived: in the new frame, the page's single current value (R228, R303). -/
def currentLoc (s : State) (pa : Nat) : Nat :=
  (s.moves.findSome? fun m =>
    if m.moved && decide (m.source ≤ pa) && decide (pa < m.source + m.size) then m.target.map fun t => t + (pa - m.source) else none).getD pa

/-- Whether a foreign access of `n` bytes meets a row that waits for its scrub (R310). -/
def foreignWaits (s : State) (pa n : Nat) : Bool :=
  !s.scrubbing.isEmpty && (List.range n).any fun k => s.scrubs (currentLoc s (pa + k))

/-- The bytes that a foreign read returns; uncorrectable ones are free values. -/
def foreignBytes (s : State) (pa n : Nat) : List Byte :=
  (List.range n).map fun k =>
    let a := currentLoc s (pa + k)
    if s.isPoisoned a then BitVec.ofNat 8 (Config.freeChoice (s.free + k)) else s.readByte a

/-- Whether an endpoint sends packets through egress quarantine: the device links 0 to 23, and the ports 24 to 27 that are host ports (R313, R324). -/
def quarantined (s : State) (e : Nat) : Bool := decide (e < 24) || s.hostPorts.contains (e - 24)

/-- The bytes that one packet holds at most: those of 1,024 flits (R328). -/
def packetLimit : Nat := 262144

/-- FOREIGN_READ (R306, R313): the home returns the decompressed bytes; over a device link or a host port they leave through quarantine, which holds 64 packets. A read of more bytes than a link's replay buffer holds is answered in packets that it can hold (R328; DESIGN CHOICE, log 95), and one of a row that waits for its scrub is held (R310). -/
def foreignReadStep (port pa n : Nat) (s : State) : State :=
  let room := !quarantineFull s port && decide ((Store.get [] s.quarantine port).length + ceilDiv n packetLimit ≤ 64)
  if !foreignRange s pa n || (quarantined s port && !room) then s
  else if foreignWaits s pa n then { s with heldInputs := s.heldInputs ++ [.foreignRead port pa n] }
  else if packetLimit < n then
    { s with agenda := .foreignRead port pa packetLimit :: .foreignRead port (pa + packetLimit) (n - packetLimit) :: s.agenda }
  else
    let bs := foreignBytes s pa n
    let s := { s with free := s.free + n }
    if quarantined s port then
      let rows := ((List.range n).map fun k => regionOf (endpointDie port) (currentLoc s (pa + k))).eraseDups
      putPacket port ⟨.foreign pa n, s.cyc.toNat, rows, false, bs⟩ s
    else { s with outbox := s.outbox ++ [Out.foreignData port bs] }

def execForeignRead (port pa len : Nat) (s : State) : Outcome State Fault Refusal := .next (foreignReadStep port pa len s)

/-- Memory written by a foreign agent, which marks no zero block: the home marks for agents of the package (R305). -/
def State.writeForeign (s : State) (bs : List (Nat × Byte)) : State :=
  let t := s.writeBytes bs
  { t with zeroBlocks := t.zeroBlocks.filter s.zeroBlocks.contains }

/-- A foreign write takes place (R306): compressed pages are expanded first; then the bytes are written. -/
def writeForeignAt (pa : Nat) (bs : List Byte) (s : State) : State :=
  let s := (compressedPages s pa bs.length).foldl expandPage s
  s.writeForeign ((bytesAt pa bs).map fun (a, b) => (currentLoc s a, b))

/-- Whether a function is assigned to the partition of a queue (R327). -/
def functionHas (s : State) (fn q : Nat) : Bool :=
  match (queuePartition s q).bind fun k => s.parts[k]? with
  | some t => t.functions.contains fn
  | none => false

/-- Whether a function's write leaves the queues of other partitions alone (R327): of a descriptor it may write TAIL, of its own partition's queues, and a ring only of those (R272). -/
def appendOk (s : State) (fn loc n : Nat) : Bool :=
  s.queues.all fun (q, k) =>
    let own := functionHas s fn q
    let ring := match ringLoc s q k.conf.ring.toNat with
      | some r => overlap r (128 * 2 ^ k.conf.log2n.toNat) loc n
      | none => false
    (!overlap (queueLoc s q) 64 loc n || (own && decide (queueLoc s q + 20 ≤ loc) && decide (loc + n ≤ queueLoc s q + 24))) && (!ring || own)

/-- FOREIGN_WRITE (R306) over an endpoint: of a function of a host port, which may append only to the queues of its partition (R327), or of a device of the CXL tier behind its port. A peer's write comes in a flit of its device link (R328). A write to a row that waits for its scrub is held (R310). -/
def foreignWriteStep (port : Nat × Nat) (pa : Nat) (bs : List Byte) (s : State) : State :=
  let host := s.hostPorts.contains (port.1 - 24)
  let allowed := if host then s.presents port.2 && decide (s.functionPort port.2 = port.1) && appendOk s port.2 pa bs.length
    else !cellarSpan pa bs.length
  if decide (port.1 < 24) || decide (28 ≤ port.1) || !allowed || !foreignRange s pa bs.length then s
  else if foreignWaits s pa bs.length then { s with heldInputs := s.heldInputs ++ [.foreignWrite port pa bs] }
  else writeForeignAt pa bs s

def execForeignWrite (port : Nat × Nat) (pa : Nat) (bytes : List Byte) (s : State) : Outcome State Fault Refusal :=
  .next (foreignWriteStep port pa bytes s)

end Sys2Proof.Machine
end

