-- ==== Sys2Proof/Machine/ReliEvents.lean ====
section
/-! DEFINITION. The steps of strike containment and lifetime data: scrubs, egress packets, histogram counts, epochs (R308 to R322). -/

namespace Sys2Proof.Machine

open Host (Outcome)

/-! ### Scrubs -/

/-- The granules of HBM4E and the CXL tier among a list of locations. -/
def dramGranules (l : List Nat) : List Nat := ((l.filter fun a => decide (a < sramBase)).map granuleBase).eraseDups

/-- Errors that the memory controllers have found (R311): uncorrectable granules are poisoned until rewritten; those of HBM4E are counted (Table 18.4, log 38). -/
def dramErrors (granules uncorrectable : List Nat) (s : State) : State :=
  let bad := (dramGranules uncorrectable).filter fun g => !s.poisoned.contains g
  let count (k : Nat) (s : State) (g : Nat) : State :=
    if g < 0x100000000000 then countLife s (Config.stackDie g).toNat k 1 else s
  let s := { s with poisoned := s.poisoned ++ bad }
  bad.foldl (count 9) ((dramGranules granules).foldl (count 8) s)

/-- Published stores that waited for a scrub are performed, those to the own B-plane that stand at the head of a press's queue, the releases of banks behind them (R165), and the updates of objects (R310). -/
def releaseStores (s : State) : State :=
  releaseArrivals (s.cores.foldl (fun s (p, c) => if c.heldStores.isEmpty && c.opaq.isEmpty then s else flushCore p s) s)

/-- What has come from outside the package and waited for a scrub comes next (R310). -/
def releaseInputs (s : State) : State := { s with agenda := s.heldInputs ++ s.agenda, heldInputs := [] }

/-- An SRAM word of a core tile that has no location could not be corrected (R310, R311): of a store that memory does not hold yet, whose write is then uncorrectable; of the press's queue, whose entry is consumed at its bundle, or at the one committed last where the entry does not name one; of a load that is owed, which consumes it or, speculative, gives poison (DESIGN CHOICE, log 38). -/
def loseWord (s : State) (w : TileWord) : State :=
  match w with
  | .cask p n => s.onCore p fun c => { c with heldStores := c.heldStores.modify n fun e => { e with lost := true } }
  | .opaQueue p n => s.onCore p fun c => { c with opaq := c.opaq.modify n fun o => (o.1, match o.2 with
      | .store e => .store { e with lost := true }
      | .opa _ _ _ _ _ pc space => .lost pc space
      | _ => .lost c.com.lastPc c.com.lastSpace) }
  | .landing p id => s.onCore p fun c =>
      let bad (q : Pending) : Pending := match q.load with
        | some l =>
          if decide (q.id = id) && !l.arrived then
            if l.spec then { q with poison := true } else { q with load := some { l with uncorrectable := true } }
          else q
        | none => q
      let f (r : Regs) : Regs := { r with pend := r.pend.map bad }
      { c with work := f c.work, mark := f c.mark, com := f c.com }

/-- The core whose tile holds a word. -/
def wordCore : TileWord → Nat
  | .cask p _ | .opaQueue p _ | .landing p _ => p

/-- SCRUB (R310, R311): the oldest region that waits is scrubbed; `granules` are its corrected words, `uncorrectable` those that are poisoned, and `words` the uncorrectable ones of a core tile that have no location. Granules of HBM4E and the CXL tier among them are what the memory controllers found. -/
def scrubStep (granules uncorrectable : List Nat) (words : List TileWord) (s : State) : State :=
  let s := dramErrors granules uncorrectable s
  match s.scrubbing with
  | [] => s
  | r :: l =>
    let mine (a : Nat) : Bool := decide (sramBase ≤ a) && decide (regionOf 0 a = r)
    let bad := (((uncorrectable.filter mine).map granuleBase).eraseDups).filter fun g => !s.poisoned.contains g
    let d := regionDie r
    let gone := words.filter fun w => decide (r = .core (wordCore w))
    let s := releaseInputs (releaseStores (gone.foldl loseWord { s with scrubbing := l, poisoned := s.poisoned ++ bad }))
    countLife (countLife (countLife s d 6 (((granules.filter mine).map granuleBase).eraseDups).length) d 7 (bad.length + gone.length)) d 12 1

def execScrub (granules : List Nat) (uncorrectable : List Nat × List TileWord) (s : State) : Outcome State Fault Refusal :=
  .next (scrubStep granules uncorrectable.1 uncorrectable.2 s)

/-! ### Egress -/

/-- The flits that a packet takes (R328). -/
def flitCount (n : Nat) : Nat := (n + 255) / 256

/-- The flits of a packet, numbered from the link's next one on; they stay in the replay buffer until the peer has them (R328). -/
def packetFlits (l : Link) (q : Packet) : List (Nat × PacketSource × List Byte) :=
  (List.range (flitCount q.bytes.length)).map fun k => ((l.tx + k) % 2 ^ 20, q.source, (q.bytes.drop (256 * k)).take 256)

/-- The message of a function's vector, unless the table's entry is masked, which leaves it pending (Table 19.2, log 88). A vector that the table of 64 does not have sends none. -/
def raiseVector (fn vec : Nat) (s : State) : State :=
  let k := 64 * fn + vec
  let m := Store.get MsixEntry.reset s.msix k
  if 64 ≤ vec then s
  else if m.masked then { s with msix := Store.put s.msix k { m with pending := true } }
  else { s with outbox := s.outbox ++ [Out.interrupt fn vec m.addr m.data] }

/-- What of a packet reaches the other side: a completion entry is written to host memory ahead of its interrupt, and CRTAIL follows (R281, R326). -/
def deliverPacket (e : Nat) (q : Packet) (s : State) : State :=
  match q.source with
  | .send _ _ | .redx _ _ => { s with outbox := s.outbox ++ [Out.packet e q.bytes] }
  | .foreign _ _ | .kept => { s with outbox := s.outbox ++ [Out.foreignData e q.bytes] }
  | .entry fn vec addr =>
    let r := Store.get Ring.none s.rings fn
    raiseVector fn vec { s with
      outbox := s.outbox ++ [Out.completionEntry fn addr q.bytes]
      rings := Store.put s.rings fn { r with tail := (r.tail + 1) % 2 ^ 32, interrupts := r.interrupts + 1 } }

/-- A packet leaves over its endpoint, which numbers its flits. -/
def emitPacket (e : Nat) (q : Packet) (s : State) : State :=
  let l := s.link e
  deliverPacket e q { s with
    links := Store.put s.links e { l with tx := (l.tx + flitCount q.bytes.length) % 2 ^ 20, unacked := l.unacked ++ packetFlits l q }
    leftAt := s.cyc.toNat + 1 }

/-- Whether the replay buffer of 1,024 flits has room for a packet (R328). -/
def bufferRoom (l : Link) (q : Packet) : Bool := decide (l.unacked.length + flitCount q.bytes.length ≤ 1024)

/-- PACKET_RELEASE (R313): the oldest packet of an endpoint leaves at cycle r + D or later, if it is not poisoned, its link is in service and its flits have room in the replay buffer. Completion entries that waited for a place follow. -/
def releaseStep (e : Nat) (s : State) : State :=
  match Store.get [] s.quarantine e with
  | [] => s
  | q :: l =>
    if q.poisoned || decide (s.cyc.toNat < q.readAt + Config.commitDelay) || !(s.link e).up || !bufferRoom (s.link e) q then s
    else
      let s := emitPacket e q { s with quarantine := Store.put s.quarantine e l }
      (s.rings.map (·.1)).foldl (fun s fn => if decide (s.functionPort fn = e) then onRing fn id s else s) s

def execPacketRelease (endpoint : Nat) (s : State) : Outcome State Fault Refusal := .next (releaseStep endpoint s)

/-- The bytes of a packet read again: nothing where the data is uncorrectable (R314). What its sender keeps, a completion entry or the value of an atomic, is formed again as it was. -/
def readAgain (s : State) (q : Packet) : Option (List Byte) :=
  match q.source with
  | .send k off => (Store.find? s.ops k).bind fun o => (sourceBytes s o).toOption.map fun bs => (bs.drop off).take q.bytes.length
  | .redx k off => (Store.find? s.ops k).bind fun o => (sourceElems s o).toOption.map fun xs =>
    q.bytes.take 17 ++ ((xs.drop off).take (packetElems o.cmd.f)).flatMap fun x => toBytes (redxWidth o.cmd.f) x
  | .foreign pa n =>
    let locs := (List.range n).map fun k => currentLoc s (pa + k)
    if locs.any s.isPoisoned then none else some (locs.map s.readByte)
  | .entry _ _ _ | .kept => some q.bytes

/-- Elements of a contribution that have been read again are what its rank contributes. -/
def readContrib (q : Packet) (s : State) : State :=
  match q.source with
  | .redx k off =>
    let again (o : EngineOp) : Option (List Nat) := match o.contrib, (sourceElems s o).toOption with
      | some c, some xs => some (c.take off ++ (xs.drop off).take (packetElems o.cmd.f) ++ c.drop (off + packetElems o.cmd.f))
      | c, _ => c
    { s with ops := s.ops.map fun (j, o) => if j = k then (j, { o with contrib := again o }) else (j, o) }
  | _ => s

/-- The packets of operations that have ended leave quarantine. -/
def dropPackets (ks : List Nat) (s : State) : State :=
  let mine (q : Packet) : Bool := match q.source with
    | .send k _ | .redx k _ => ks.contains k
    | .foreign _ _ | .entry _ _ _ | .kept => false
  { s with quarantine := s.quarantine.map fun (e, l) => (e, l.filter fun q => !mine q) }

/-- PACKET_REBUILD (R314): the oldest poisoned packet of an endpoint is built again in its place once its rows are scrubbed; uncorrectable data ends its operation with 0x04. -/
def rebuildStep (e : Nat) (s : State) : State :=
  let l := Store.get [] s.quarantine e
  match l.find? (·.poisoned) with
  | none => s
  | some q =>
    if q.regions.any s.scrubbing.contains then s
    else match readAgain s q with
      | some bs =>
        let q' := { q with readAt := s.cyc.toNat, poisoned := false, bytes := bs }
        readContrib q { s with quarantine := Store.put s.quarantine e (l.map fun r => if r = q then q' else r) }
      | none =>
        let s := { s with quarantine := Store.put s.quarantine e (l.erase q) }
        match q.source with
        | .send k _ | .redx k _ => checkGates (failOp k 4 0 (dropPackets [k] s))
        | .foreign _ _ | .entry _ _ _ | .kept => s

def execPacketRebuild (endpoint : Nat) (s : State) : Outcome State Fault Refusal := .next (rebuildStep endpoint s)

/-! ### Lifetime data -/

/-- An event on a histogram entry in epoch `e` (R321, Table 18.6). -/
def histEvent (e : Nat) (x : BitVec 32) : BitVec 32 :=
  let v := x.toNat
  let n := if bitsOf v 0 8 = e % 256 then bitsOf v 8 8 else 0
  BitVec.ofNat 32 (e % 256 + 2 ^ 8 * Nat.min (n + 1) 255 + 2 ^ 16 * Nat.min (bitsOf v 16 16 + 1) 65535)

/-- One entry of a check failure of core `p` is counted (Table 18.3): in a core's record, among the die counters, or of a native unit. -/
def countHist (p : Nat) (s : State) (k : Nat) : State :=
  if decide (2 ^ 16 ≤ k) && decide (k < 2 ^ 20) then countLife s (dieOf p) (k - 2 ^ 16) 1
  else
    let l := s.lifeOf (dieOf p)
    let key := if 2 ^ 20 ≤ k then k else 1024 * (p % 160) + k
    { s with life := Store.put s.life (dieOf p) { l with hist := Store.set 0 l.hist key (histEvent l.epoch (Store.get 0 l.hist key)) } }

/-- HISTOGRAM_COUNT (R319): the check failures of the die whose D cycles have passed are counted: in their entries, or as strike-attributed. -/
def histogramStep (die : Nat) (s : State) : State :=
  let due (d : Deferred) : Bool := decide (dieOf d.core = die) && decide (d.due < s.cyc.toNat)
  let ds := s.deferred.filter due
  let s := { s with deferred := s.deferred.filter fun d => !due d }
  ds.foldl (fun s d => if d.strike then countLife s die 2 1 else d.entries.foldl (countHist d.core) s) s

def execHistogramCount (die : Nat) (s : State) : Outcome State Fault Refusal := .next (histogramStep die s)

/-- The counts gathered in SRAM are written to non-volatile storage, two copies of each record (R320). -/
def Lifetime.store (l : Lifetime) : Lifetime :=
  { l with nvHist := l.hist, nvCounters := l.counters, nvHist2 := l.hist, nvCounters2 := l.counters }

/-- A part of the lifetime region: its offset and bytes, zeros to `n` bytes. -/
def lifeBlock (off n : Nat) (bs : List Byte) : Nat × List Byte := (off, (List.range n).map fun k => bs.getD k 0)

/-- The record of core `c` (Table 18.5). -/
def Lifetime.coreRecord (l : Lifetime) (c : Nat) : List Byte :=
  ((List.range 145).flatMap fun k => toBytes 4 (Store.get 0 l.hist (1024 * c + 4 * k)).toNat) ++ toBytes 4 0 ++
    toBytes 8 (Store.get 0 l.counters (16 + c)) ++ toBytes 1 (Store.get 0 l.standIn c) ++ toBytes 1 (bit (l.retired.contains c))

/-- The lifetime region of a die, little-endian (Tables 18.4 and 18.5): the header, the die counters, and the records of cores and native units that are not zero. -/
def Lifetime.region (die : Nat) (l : Lifetime) : List (Nat × List Byte) :=
  let cores := (((l.hist.filterMap fun (k, _) => if k < 2 ^ 20 then some (k / 1024) else none) ++ l.standIn.map (·.1) ++ l.retired ++
    l.counters.filterMap fun (k, _) => if decide (16 ≤ k) && decide (k < 176) then some (k - 16) else none).eraseDups).filter fun c => decide (c < 160)
  let units := ((l.hist.filterMap fun (k, _) => if 2 ^ 20 ≤ k then some (k - 2 ^ 20) else none) ++ l.mappedOut).eraseDups
  [lifeBlock 0 0x40 (toBytes 4 1 ++ toBytes 4 die ++ toBytes 8 l.epoch ++ toBytes 8 l.writes ++ toBytes 4 l.wepoch ++ toBytes 4 l.wlife),
    lifeBlock 0x40 0x80 ((List.range 16).flatMap fun k => toBytes 8 (Store.get 0 l.counters k))] ++
  (cores.map fun c => lifeBlock (0x1000 + 0x400 * c) 0x400 (l.coreRecord c)) ++
  units.map fun u => lifeBlock (0x29000 + 0x10 * u) 0x10 (toBytes 4 (Store.get 0 l.hist (2 ^ 20 + u)).toNat ++ toBytes 1 (bit (l.mappedOut.contains u)))

/-- EPOCH_END (R320): every 2^42 cycles. -/
def epochStep (die : Nat) (s : State) : State :=
  let l := s.lifeOf die
  if s.cyc.toNat < l.ends then s
  else { s with life := Store.put s.life die { l.store with epoch := l.epoch + 1, writes := l.writes + 1, ends := l.ends + 2 ^ 42 } }

def execEpochEnd (die : Nat) (s : State) : Outcome State Fault Refusal := .next (epochStep die s)

/-- ORDERLY_SHUTDOWN (R320). -/
def shutdownStep (s : State) : State := { s with life := s.life.map fun (d, l) => (d, l.store) }

def execOrderlyShutdown (s : State) : Outcome State Fault Refusal := .next (shutdownStep s)

end Sys2Proof.Machine
end

