-- ==== Sys2Proof/Machine/HostEvents.lean ====
section
/-! DEFINITION. The steps of bring-up, ports, links, the management port and power (R5, R286, R320 to R336, R339). -/

namespace Sys2Proof.Machine

open Host (Outcome)

/-! ### Bring-up -/

/-- A list cut or filled with zeros to `n` bytes. -/
def exactly (n : Nat) (l : List Byte) : List Byte := (List.range n).map fun k => l.getD k 0

/-- A measurement register extended by a digest: SHAKE256(M ‖ digest), 64 bytes (R333). -/
def extend (m digest : List Byte) : List Byte := exactly 64 (shake256 64 (m ++ exactly 64 digest))

/-- The numbers that service firmware sets, list by list with its length. -/
def confNumbers (parts : List PartConf) (conf : ServiceConf) : List Nat :=
  let block (l : List Nat) : List Nat := l.length :: l
  block (parts.flatMap fun q => block q.clusters ++ block q.functions) ++ block (conf.tiers.flatMap block) ++ [conf.ctbase.toNat] ++
    block (conf.journals.flatMap fun e => [e.1, e.2]) ++ block (conf.slices.flatMap fun e => [e.1, e.2.1, e.2.2])

/-- A die's lifetime data after cold reset: what non-volatile storage holds, its second copy where the first is uncorrectable; stand-ins of the last run are over, permanent ones stay (R311, R317, R320, R322). -/
def Lifetime.afterReset (firstBad : Bool) (l : Lifetime) : Lifetime :=
  { l with
    hist := if firstBad then l.nvHist2 else l.nvHist
    counters := if firstBad then l.nvCounters2 else l.nvCounters
    standIn := l.permanent
    ends := 2 ^ 42 }

/-- The free contents of HBM4E and the CXL tier after cold reset: each byte listed before holds a free value (R339, log 6). -/
def freeDram (s : State) : List (Nat × Byte) :=
  ((s.mem.filter fun (a, _) => decide (a < sramBase)).zipIdx).map fun (e, k) => (e.1, BitVec.ofNat 8 (Config.freeChoice (s.free + k)))

/-- Whether the check of a bring-up stage fails (Table 19.4). -/
def State.fails (s : State) (stage : Nat) : Bool := s.failing.contains stage

/-- A bring-up stage has failed: the package does not go on to the next one (Table 19.4). -/
def stageFails (n : Nat) (s : State) : State := { s with outbox := s.outbox ++ [Out.stageFailed n] }

/-- The package as cold reset leaves it, before the ROM stage (R339): SRAM is zero, every register at its reset value; non-volatile lifetime data, die counter blocks, the board strap and the images that bring-up will check stay. -/
def resetState (s : State) : State :=
  let ws := freeDram s
  { State.reset with
    mem := Memory.write [] ws
    free := s.free + ws.length
    life := s.life.map fun (d, l) => (d, l.afterReset (Config.lifeBad (s.free + d)))
    counters := s.counters
    hostmask := s.hostmask
    failing := s.failing
    agenda := s.agenda
    outbox := s.outbox }

/-- COLD_RESET (R333, R339): after it the ROM stage verifies the measured stage and extends M0, or stops (Table 19.4). -/
def coldResetStep (s : State) : State :=
  let r := resetState s
  if s.fails 1 then stageFails 1 { r with stage := .stopped } else { r with stage := .trustedBase, m0 := extend r.m0 (Config.stageDigest 0) }

def execColdReset (s : State) : Outcome State Fault Refusal := .next (coldResetStep s)

/-- The host ports that a strap gives (R324). -/
def portsOf (mask : BitVec 4) : List Nat :=
  match ((List.range 4).filter fun k => mask.getLsbD k).take 2 with
  | [] => [0]
  | l => l

/-- Links trained: they are in service, and nothing of what they carried before is replayed (R329). -/
def trainLinks (ns : List Nat) (s : State) : State :=
  { s with links := ns.foldl (fun m n => Store.put m n { s.link n with up := true, replays := 0, unacked := [], resent := 0 }) s.links }

/-- TRUSTED_BASE_FIRMWARE (R324, R333): port roles from HOSTMASK, and the host ports are trained; the service firmware's image is verified and measured in M1. An image that fails can be supplied again (Table 19.4). -/
def trustedBaseStep (s : State) : State :=
  if s.stage = .trustedBase then
    let ports := portsOf s.hostmask
    let s := trainLinks (ports.map fun k => 24 + k) { s with hostPorts := ports }
    if s.fails 2 then stageFails 2 s else { s with m1 := extend s.m1 (Config.stageDigest 1), stage := .service }
  else s

def execTrustedBaseFirmware (s : State) : Outcome State Fault Refusal := .next (trustedBaseStep s)

/-- An entry is weak (R322). -/
def Lifetime.weak (l : Lifetime) (key : Nat) : Bool :=
  let v := (Store.get 0 l.hist key).toNat
  decide (l.wepoch ≤ bitsOf v 8 8) || decide (l.wlife ≤ bitsOf v 16 16)

/-- The weak entries among `n` from an offset of core `c`'s record on. -/
def Lifetime.weakOf (l : Lifetime) (c off n : Nat) : List Nat :=
  (List.range n).filter fun k => l.weak (1024 * c + off + 4 * k)

/-- The decision on core `c` of a die (Table 18.7). -/
def Lifetime.decide (l : Lifetime) (c : Nat) : Lifetime :=
  let cols := l.weakOf c 0x140 64
  let held := match Store.get 0 l.permanent c with
    | 0 => cols
    | k + 1 => (k :: cols).eraseDups
  let other := !(l.weakOf c 0 64).isEmpty || !(l.weakOf c 0x100 16).isEmpty || !(l.weakOf c 0x240 1).isEmpty
  if other || Decidable.decide (2 ≤ held.length) then { l with retired := (l.retired ++ [c]).eraseDups }
  else match held with
    | [j] => { l with permanent := Store.put l.permanent c (1 + j), standIn := Store.put l.standIn c (1 + j) }
    | _ => l

/-- The decisions on a die: its cores that have entries, and its native units (R322). -/
def Lifetime.decideAll (l : Lifetime) : Lifetime :=
  let cores := ((l.hist.map fun (k, _) => k / 1024).filter fun c => Decidable.decide (c < 160)).eraseDups
  let units := (l.hist.filterMap fun (k, _) => if Decidable.decide (2 ^ 20 ≤ k) && l.weak k then some (k - 2 ^ 20) else none)
  let l := cores.foldl Lifetime.decide l
  { l with mappedOut := (l.mappedOut ++ units).eraseDups }

/-- Whether a cluster has a retired core: it is out of service (R322, R327). -/
def clusterRetired (s : State) (c : Nat) : Bool :=
  (s.lifeOf (c / 20)).retired.any fun k => decide ((160 * (c / 20) + k) / 8 = c)

/-- The partitions formed: whole clusters in service, none shared, a virtual function in at most one, physical functions in every one (R327). -/
def formParts (s : State) (parts : List PartConf) : List PartConf :=
  let physical := if 2 ≤ s.hostPorts.length then [0, 257] else [0]
  parts.foldl (fun acc q =>
    let cs := (q.clusters.filter fun c => decide (c < 80) && !clusterRetired s c && !acc.any fun (a : PartConf) => a.clusters.contains c).eraseDups
    let fs := (q.functions.filter fun f => decide (1 ≤ f) && decide (f ≤ 256) && !acc.any fun (a : PartConf) => a.functions.contains f).eraseDups
    if cs.isEmpty then acc else acc ++ [⟨cs, physical ++ fs⟩]) []

/-- The stand-ins that service firmware gives take effect in the presses (R317). -/
def applyStandIns (s : State) : State :=
  s.life.foldl (fun s (d, l) => l.permanent.foldl (fun s (c, j) => s.onCore (160 * d + c) fun k => { k with standIn := some (j - 1) }) s) s

/-- SLICE and HPE of the groups given, within their ranges (R273). -/
def setSlices (l : List (Nat × Nat × Nat)) (s : State) : State :=
  { s with groups := l.foldl (fun m (n, sl, hpe) =>
      Store.put m n { s.group n with slice := sliceIn sl, r := sliceIn sl, hpe := hpeIn hpe }) s.groups }

/-- SERVICE_FIRMWARE (R325, R327, R333): tier memory is mapped in port and device order, up to 4 devices behind a port (Table 19.1), tier ports and device links are trained, lifetime decisions applied, CTBASE and the journal regions reserved, SLICE and HPE set, partitions formed; M2 is extended with the configuration and the functions open. Where a check of the stage fails they stay closed (Table 19.4). -/
def serviceStep (parts : List PartConf) (conf : ServiceConf) (s : State) : State :=
  if s.stage ≠ .service then s
  else if s.fails 3 then stageFails 3 s
  else
    let sizes := (conf.tiers.take 4).zipIdx.map fun (ds, k) => if s.hostPorts.contains k then [] else ds.take 4
    let ports := (List.range 4).filter fun k => !s.hostPorts.contains k
    let s := trainLinks (List.range 24 ++ ports.map fun k => 24 + k) (setSlices conf.slices { s with
      tiers := sizes
      cxlSize := Nat.min (sizes.flatten.foldl (· + ·) 0) 0x80000000000
      ctbase := conf.ctbase &&& 0xFFFFFFFFFFFFF
      regions := conf.journals.foldl (fun m e => Store.put m e.1 e.2) s.regions
      life := s.life.map fun (d, l) => (d, Lifetime.decideAll l)
      m2 := extend s.m2 (Config.confDigest (confNumbers parts conf))
      stage := .ready })
    applyStandIns { s with parts := formParts s parts }

def execServiceFirmware (parts : List PartConf) (conf : ServiceConf) (s : State) : Outcome State Fault Refusal := .next (serviceStep parts conf s)

/-! ### Management requests -/

/-- Bytes 0 to 311 of the attestation report (Table 19.5). -/
def reportBody (nonce : BitVec 256) (s : State) : List Byte :=
  toBytes 4 1 ++ toBytes 4 0x26400 ++ toBytes 1 (bit Config.isB0) ++ toBytes 7 0 ++ toBytes 32 nonce.toNat ++
    exactly 64 Config.serials ++ exactly 64 s.m0 ++ exactly 64 s.m1 ++ exactly 64 s.m2 ++ toBytes 8 s.gstep.toNat

/-- Whether the trusted base firmware runs and has started service firmware. -/
def State.trusted (s : State) : Bool := decide (s.stage = .service) || decide (s.stage = .ready)

/-- ATTESTATION_REQUEST (R334). -/
def attestationStep (nonce : BitVec 256) (s : State) : State :=
  if s.trusted then
    let b := reportBody nonce s
    { s with outbox := s.outbox ++ [Out.report (b ++ exactly 3309 (Config.mldsaSign b))] }
  else s

def execAttestationRequest (nonce : BitVec 256) (s : State) : Outcome State Fault Refusal := .next (attestationStep nonce s)

/-- IDENTITY_KEY_REQUEST (R334): the public key, 1,952 bytes, with its certificate chain. -/
def identityStep (s : State) : State :=
  if s.trusted then { s with outbox := s.outbox ++ [Out.identity (exactly 1952 Config.identityKey) Config.certChain] } else s

def execIdentityKeyRequest (s : State) : Outcome State Fault Refusal := .next (identityStep s)

/-- LIFETIME_READ (R320, R335): the die's region, as Tables 18.4 and 18.5 lay it out. -/
def lifetimeStep (die : Nat) (s : State) : State :=
  if s.stage = .ready then { s with outbox := s.outbox ++ [Out.lifetime die ((s.lifeOf die).region die)] } else s

def execLifetimeRead (die : Nat) (s : State) : Outcome State Fault Refusal := .next (lifetimeStep die s)

/-- COUNTER_READ (R335). -/
def counterStep (die : Nat) (s : State) : State :=
  if s.stage = .ready then { s with outbox := s.outbox ++ [Out.counters die (Store.get [] s.counters die)] } else s

def execCounterRead (die : Nat) (s : State) : Outcome State Fault Refusal := .next (counterStep die s)

/-! ### Links -/

/-- Whether something of the reduction at a group's head has gone over its link: a local rank's contribution, or another chip's. -/
def redxUnderWay (s : State) (g : RedGroup) : Bool :=
  g.incoming.any (fun c => decide (c.m = g.number)) || s.ops.any fun (k, o) => redxHead g k && o.contrib.isSome

/-- An operation with a flit on link `n`, an object's or a channel's other end being on another chip; of a reduction, every rank at the head of its group (R230, R329, log 18). One that has its result has no flit there any more. -/
def onLink (s : State) (n k : Nat) (o : EngineOp) : Bool :=
  match o.cmd.kind with
  | .send => decide (o.stage = .running) && remote (channelOf s o).receiver && decide (channelLink (o.cmd.b.toNat % 4096) = n)
  | .recv => decide (o.stage = .running) && remote (channelOf s o).sender && decide (channelLink (o.cmd.b.toNat % 4096) = n)
  | .redx => match Store.find? s.redGroups (o.cmd.b.toNat % 65536) with
    | some g => g.ranks.any remote && decide (groupLink (o.cmd.b.toNat % 65536) = n) && redxUnderWay s g && redxHead g k
    | none => false
  | _ => false

/-- Whether an event is a flit of link `n`. -/
def flitOf (n : Nat) : Instr → Bool
  | .flitReceive k _ _ _ => decide (k = n)
  | _ => false

/-- A link out of service: what it has not delivered, or has not been taken from it, is not replayed, and the reductions under way over it have failed, for ranks that follow too (R329). -/
def closeLink (n : Nat) (s : State) : State :=
  { s with
    heldInputs := s.heldInputs.filter fun i => !flitOf n i
    links := Store.put s.links n { s.link n with up := false, unacked := [], resent := 0 }
    redGroups := s.redGroups.map fun (h, g) =>
      (h, if g.ranks.any remote && decide (groupLink h = n) && redxUnderWay s g then { g with failed := true } else g) }

/-- What flits have brought for RECV `k` of another chip's SEND stays applied: it stands in the buffer, and no later RECV takes it (R230, R329). -/
def keepReceived (k : Nat) (s : State) : State :=
  match Store.find? s.ops k with
  | none => s
  | some o =>
    if decide (o.cmd.kind = .recv) then
      let bs := (channelOf s o).inbox.take o.bytes
      let t := (writeDest s o bs).getD s
      { t with channels := Store.put t.channels (o.cmd.b.toNat % 4096) { channelOf t o with inbox := (channelOf t o).inbox.drop bs.length } }
    else s

/-- LINK_FAIL (R329): every operation with a flit on the link ends with 0x07; the link stays out of service. A device link that fails is counted (Table 19.6). -/
def failLink (n : Nat) (s : State) : State :=
  if !(s.link n).up then s
  else
    let ks := s.ops.filterMap fun (k, o) => if onLink s n k o then some k else none
    let s := ks.foldl (fun s k => keepReceived k s) (dropPackets ks (closeLink n (if n < 24 then countDie s (endpointDie n) 6 else s)))
    checkGates (ks.foldl (fun s k => failOp k 7 0 s) s)

def execLinkFail (link : Nat) (s : State) : Outcome State Fault Refusal := .next (failLink link s)

/-- Flits of a device link are replayed: both counters of the die follow (Tables 18.4 and 19.6). -/
def countReplays (n k : Nat) (s : State) : State :=
  if n < 24 then countLife ((List.range k).foldl (fun s _ => countDie s (endpointDie n) 5) s) (endpointDie n) 10 k else s

/-- A flit is asked for again: counted, and the sixteenth replay of one flit fails the link (R328, R329). -/
def askReplay (n seq : Nat) (s : State) : State :=
  let l := s.link n
  let r := if seq = l.rx then l.replays + 1 else l.replays
  let s := countReplays n 1 { s with links := Store.put s.links n { l with replays := r }, outbox := s.outbox ++ [Out.replayRequest n seq] }
  if 16 ≤ r then failLink n s else s

/-- Whether flit `a` is number `b` or a later one. -/
def flitFrom (b a : Nat) : Bool := decide ((a + 2 ^ 20 - b) % 2 ^ 20 < 2 ^ 19)

/-- The peer has every flit before `next`: they leave the replay buffer (R328). -/
def ackFlits (n next : Nat) (s : State) : State :=
  let l := s.link n
  let rest := l.unacked.filter fun u => flitFrom (next % 2 ^ 20) u.1
  { s with links := Store.put s.links n { l with unacked := rest, resent := if rest.length = l.unacked.length then l.resent else 0 } }

/-- The peer asks for flit `seq` again: it and every flit after it are sent once more from the replay buffer; the sixteenth time fails the link (R328, R329). -/
def resendFlits (n seq : Nat) (s : State) : State :=
  let s := ackFlits n seq s
  let l := s.link n
  let s := countReplays n l.unacked.length { s with
    links := Store.put s.links n { l with resent := l.resent + 1 }
    outbox := s.outbox ++ l.unacked.map fun u => Out.flitAgain n u.1 u.2.2 }
  if 16 ≤ l.resent + 1 then failLink n s else s

/-- A flit's part of a contribution joins what has come of it: of a rank on another chip, in a reduction that is not over, each element once (R229, R331). -/
def takeContribution (h m rank : Nat) (f : BitVec 4) (total : Nat) (xs : List Nat) (s : State) : State :=
  match Store.find? s.redGroups h with
  | none => s
  | some g => match g.ranks[rank]? with
    | none => s
    | some p =>
      if !remote p || decide (m < g.number) then s
      else
        let same (c : Contribution) : Bool := decide (c.rank = p) && decide (c.m = m)
        let add (c : Contribution) : Contribution := { c with elems := (c.elems ++ xs).take c.total }
        let l := if g.incoming.any same then g.incoming else g.incoming ++ [⟨p, m, f, total, []⟩]
        { s with redGroups := Store.put s.redGroups h { g with incoming := l.map fun c => if same c then add c else c } }

/-- A peer's atomic enters the home of its location, under the peer's tag (R143, R328): a compressed page is expanded first (R306), and one that has moved is found in its new frame (R303). -/
def takeAtomic (n src seq : Nat) (op : AtomOp) (bf16 : Bool) (loc width : Nat) (operand cmp : Word) (s : State) : State :=
  if foreignRange s loc width && decide (loc % width = 0) then
    let s := (compressedPages s loc width).foldl expandPage s
    let loc := currentLoc s loc
    { s with
      reqs := Store.put s.reqs s.nextReq
        ⟨[⟨peerAgent src, peerAgent n, seq % 65536, loc, 0, operand⟩], op, loc, width, bf16, cmp, [], s.cyc.toNat, false⟩
      nextReq := s.nextReq + 1 }
  else s

/-- The effects of a flit (R328): those of a device link, and on any endpoint the peer's word on the flits sent to it. -/
def applyFlit (n : Nat) (x : FlitLoad) (s : State) : State :=
  match x with
  | .idle => s
  | .write pa bs => if decide (n < 24) && foreignRange s pa bs.length && !cellarSpan pa bs.length then writeForeignAt pa bs s else s
  | .data ch bs =>
    match Store.find? s.channels ch with
    | some c => if decide (n < 24) && remote c.sender then { s with channels := Store.put s.channels ch { c with inbox := c.inbox ++ bs } } else s
    | none => s
  | .contribution h m rank f total xs => if n < 24 then takeContribution h m rank f total xs s else s
  | .atomic src seq float op bf16 loc width operand cmp =>
    if n < 24 then takeAtomic n src seq (amoOp float op) bf16 loc width operand cmp s else s
  | .ack next => ackFlits n next s
  | .again seq => resendFlits n seq s

/-- Whether a flit waits before it is taken: it writes a row that waits for its scrub (R310), or an earlier flit of its link waits so. -/
def flitWaits (n : Nat) (x : FlitLoad) (s : State) : Bool :=
  s.heldInputs.any (flitOf n) || match x with
    | .write pa bs => foreignWaits s pa bs.length
    | _ => false

/-- FLIT_RECEIVE (R328): a good flit with the expected number is applied once and acknowledged; one applied before is discarded; any other is replayed. -/
def flitStep (n seq : Nat) (good : Bool) (x : FlitLoad) (s : State) : State :=
  let l := s.link n
  let seq := seq % 2 ^ 20
  if !l.up then s
  else if flitWaits n x s then { s with heldInputs := s.heldInputs ++ [.flitReceive n seq good x] }
  else if good && decide (seq = l.rx) then
    let next := (l.rx + 1) % 2 ^ 20
    applyFlit n x { s with
      links := Store.put s.links n { l with rx := next, replays := 0 }
      outbox := s.outbox ++ [Out.flitAck n next] }
  else if good && flitFrom seq l.rx then s
  else askReplay n seq s

def execFlitReceive (link seq : Nat) (crcGood : Bool) (load : FlitLoad) (s : State) : Outcome State Fault Refusal :=
  .next (flitStep link seq crcGood load s)

/-- LINK_RETRAIN (R329). -/
def retrainStep (n : Nat) (s : State) : State := if decide (n < 28) && !(s.link n).up then trainLinks [n] s else s

def execLinkRetrain (link : Nat) (s : State) : Outcome State Fault Refusal := .next (retrainStep link s)

/-- The length of the next tick (R330): 256 cycles; a chip that follows its domain's source, the chip with number 0, may take up to 8 more or fewer (a free value, log 64). -/
def tickLength (s : State) : Nat :=
  if s.domain && decide (s.chip ≠ 0) then 248 + Config.freeChoice s.free % 17 else 256

/-- GSTEP_TICK (R330): at the end of the current tick GSTEP takes its next value. -/
def tickStep (s : State) : State :=
  if s.cyc.toNat < s.tickEnd then s
  else { s with gstep := s.gstep + 1, tickEnd := s.tickEnd + tickLength s, free := s.free + 1 }

def execGstepTick (s : State) : Outcome State Fault Refusal := .next (tickStep s)

/-! ### Tier devices, power, registers -/

/-- TIER_DEVICE_FAILURE (R325) of a device, as its port and its place behind it (log 86): every operation that touches the failed device's range ends with 0x08. -/
def tierFailStep (device : Nat × Nat) (s : State) : State :=
  if decide ((s.tiers.getD device.1 []).getD device.2 0 = 0) || s.failedDevices.contains device then s
  else
    let s := { s with failedDevices := s.failedDevices ++ [device] }
    let ks := s.ops.filterMap fun (k, o) => match opError s k o with
      | some (8, row) => some (k, row)
      | _ => none
    checkGates (ks.foldl (fun s q => failOp q.1 8 q.2 s) s)

def execTierDeviceFailure (device : Nat × Nat) (s : State) : Outcome State Fault Refusal := .next (tierFailStep device s)

/-- DROOP (R336): the die's core clock is stretched; no count in cycles changes. -/
def droopStep (die : Nat) (s : State) : State := { s with stretch := Store.put s.stretch die (Store.get 0 s.stretch die + 1) }

def execDroop (die : Nat) (s : State) : Outcome State Fault Refusal := .next (droopStep die s)

/-- A die counter raised by `n`; it saturates (R335). -/
def addDie (s : State) (die k n : Nat) : State :=
  let b := Store.get [] s.counters die
  let v := Nat.min ((Store.get 0 b k).toNat + n) (2 ^ 64 - 1)
  { s with counters := Store.put s.counters die (Store.set 0 b k (BitVec.ofNat 64 v)) }

/-- POWER_CAP_WINDOW (R336): `stretched` cycles were lengthened to hold PCAP over the window. -/
def powerStep (stretched : Nat) (s : State) : State := (List.range 4).foldl (fun s d => addDie s d 7 stretched) s

def execPowerCapWindow (stretched : Nat) (s : State) : Outcome State Fault Refusal := .next (powerStep stretched s)

/-- CRHEAD_WRITE (R326): of a function that is presented. -/
def crheadStep (fn : Nat) (v : BitVec 32) (s : State) : State := if s.presents fn then onRing fn (fun r => { r with head := v.toNat }) s else s

def execCrheadWrite (fn : Nat) (v : BitVec 32) (s : State) : Outcome State Fault Refusal := .next (crheadStep fn v s)

/-- The lifetime header of a die changed. -/
def onLife (die : Nat) (f : Lifetime → Lifetime) (s : State) : State := { s with life := Store.put s.life die (f (s.lifeOf die)) }

/-- A pinned segment entry with one of its four words written; reserved bits stay zero (Table 17.3). -/
def segmentWord (b : BitVec 256) (word : Nat) (v : Word) : BitVec 256 :=
  let w := if word = 3 then v &&& 0x1D else v
  (b &&& ~~~((allOnes64.setWidth 256) <<< (64 * word))) ||| ((w.setWidth 256) <<< (64 * word))

/-- Word 0 or 1 of an entry of a function's MSI-X table takes a value: the message's address; its data with the mask bit above it, and an entry that is unmasked sends what was pending (Table 19.2, log 88). -/
def msixWrite (fn vec word : Nat) (v : Word) (s : State) : State :=
  let k := 64 * fn + vec
  let m := Store.get MsixEntry.reset s.msix k
  if decide (64 ≤ vec) || decide (2 ≤ word) then s
  else if word = 0 then { s with msix := Store.put s.msix k { m with addr := v &&& ~~~3 } }
  else
    let m := { m with data := v.setWidth 32, masked := v.getLsbD 32 }
    let s := { s with msix := Store.put s.msix k m }
    if m.pending && !m.masked then raiseVector fn vec { s with msix := Store.put s.msix k { m with pending := false } } else s

/-- A chip joins a step domain before its first task runs and takes the source's GSTEP; once it has joined, its ticks alone change it (R330). -/
def joinDomain (v : Word) (s : State) : State :=
  if s.domain || !s.tasks.isEmpty then s else { s with gstep := v, domain := true, tickEnd := s.cyc.toNat + 256 }

/-- Whether a register is there to be written: the strap and what bring-up will find from outside the package, BAR0 of a function that is presented, the ring doorbells of a physical one, any other once service firmware runs (R326, R333). -/
def registerOpens (r : RegName) (s : State) : Bool :=
  match r with
  | .hostmask | .stageFails _ => true
  | .crbase fn | .crlog2 fn | .msix fn _ _ => s.presents fn
  | .shootdownDoorbell fn _ | .faultDoorbell fn _ => s.physical fn
  | _ => s.trusted

/-- What a write of an open register does. The writable fields take the value; CTBASE is a 52-bit PA, CRBASE is 16-byte aligned, reserved bits stay zero. What system software sets for a context holds from its next task entry on (R17); the doorbell words act at once (R296, R302). -/
def writeRegister (r : RegName) (v : Word) (s : State) : State :=
  match r with
  | .hostmask => { s with hostmask := v.setWidth 4 }
  | .pcap => { s with pcap := v.toNat }
  | .fto die => { s with fto := Store.put s.fto die v.toNat }
  | .wepoch die => onLife die (fun l => { l with wepoch := v.toNat % 2 ^ 32 }) s
  | .wlife die => onLife die (fun l => { l with wlife := v.toNat % 2 ^ 32 }) s
  | .ctbase => { s with ctbase := v &&& 0xFFFFFFFFFFFFF }
  | .crbase fn => onRing fn (fun k => { k with base := v &&& ~~~0xF }) s
  | .crlog2 fn => onRing fn (fun k => { k with log2 := v.toNat % 2 ^ 32 }) s
  | .msix fn vec w => msixWrite fn vec w v s
  | .supSegment n w =>
    if decide (n < 64) && decide (w < 4) then { s with supSegs := Store.put s.supSegs n (segmentWord (Store.get 0 s.supSegs n) w v) } else s
  | .contextSvec ctx => { s with svecs := Store.put s.svecs ctx (v &&& ~~~0x1F) }
  | .contextMode ctx => { s with modes := Store.put s.modes ctx (v.setWidth 3) }
  | .contextSave p ctx => s.onCore p fun c => { c with areas := Store.put c.areas ctx (v &&& ~~~0xFFFFF) }
  | .queueContext q => { s with queueCtx := Store.put s.queueCtx q (v.toNat % 4096) }
  | .journalRegion die => { s with regions := Store.put s.regions die v.toNat }
  | .shootdownDoorbell _ die => shootdownDoorbell die (v.toNat % 2 ^ 32) s
  | .faultDoorbell _ die => faultDoorbell die v.toNat s
  | .chip => { s with chip := v.setWidth 12 }
  | .gstep => joinDomain v s
  | .mailboxEnable => { s with mailboxOpen := v.getLsbD 0 }
  | .stageFails n => { s with failing := (s.failing.filter fun k => decide (k ≠ n)) ++ if v.getLsbD 0 then [n] else [] }

/-- Whether a doorbell word makes a unit read a row that waits for its scrub (R296, R302, R310). -/
def doorbellWaits (r : RegName) (v : Word) (s : State) : Bool :=
  match r with
  | .shootdownDoorbell _ die => (newCommands s die (v.toNat % 2 ^ 32)).any fun loc => rowsWait s loc 32
  | .faultDoorbell _ die => (faultLoc s (faultKey die v.toNat)).any fun loc => rowsWait s loc 32
  | _ => false

/-- REGISTER_WRITE (R5, R326): a write of a register that is not there is dropped; a doorbell that finds its ring's row waiting for a scrub is held (R310). -/
def registerStep (r : RegName) (v : Word) (s : State) : State :=
  if !registerOpens r s then s
  else if doorbellWaits r v s then { s with heldInputs := s.heldInputs ++ [.registerWrite r v] }
  else writeRegister r v s

def execRegisterWrite (r : RegName) (v : Word) (s : State) : Outcome State Fault Refusal := .next (registerStep r v s)

/-- SCHEDULER_CORE_RELOAD (R286, R333): the core that lost its role becomes the standby. -/
def reloadStep (die : Nat) (s : State) : State :=
  { s with scheds := Store.put s.scheds die { s.sched die with standbyReady := true } }

def execSchedulerCoreReload (die : Nat) (s : State) : Outcome State Fault Refusal := .next (reloadStep die s)

end Sys2Proof.Machine
end

