-- ==== Sys2Proof/Machine/Dispatch.lean ====
section
/-! DEFINITION. One arm per instruction: a direct call of its meaning. -/

namespace Sys2Proof.Machine

def exec (i : Instr) (s : State) : Host.Outcome State Fault Refusal :=
  match i with
  -- every slot
  | .nop f => Sys2Proof.Machine.execNop f s
  -- S slot (Table 4.8)
  | .add f => Sys2Proof.Machine.execAdd f s
  | .sub f => Sys2Proof.Machine.execSub f s
  | .and f => Sys2Proof.Machine.execAnd f s
  | .or f => Sys2Proof.Machine.execOr f s
  | .xor f => Sys2Proof.Machine.execXor f s
  | .andn f => Sys2Proof.Machine.execAndn f s
  | .shl f => Sys2Proof.Machine.execShl f s
  | .shr f => Sys2Proof.Machine.execShr f s
  | .mul f => Sys2Proof.Machine.execMul f s
  | .div f => Sys2Proof.Machine.execDiv f s
  | .min f => Sys2Proof.Machine.execMin f s
  | .max f => Sys2Proof.Machine.execMax f s
  | .bitc f => Sys2Proof.Machine.execBitc f s
  | .cmp f => Sys2Proof.Machine.execCmp f s
  | .sel f => Sys2Proof.Machine.execSel f s
  | .mov f => Sys2Proof.Machine.execMov f s
  | .li f => Sys2Proof.Machine.execLi f s
  | .aadd f => Sys2Proof.Machine.execAadd f s
  | .ld f => Sys2Proof.Machine.execLd f s
  | .st f => Sys2Proof.Machine.execSt f s
  | .ldt f => Sys2Proof.Machine.execLdt f s
  | .ldx f => Sys2Proof.Machine.execLdx f s
  | .chk f => Sys2Proof.Machine.execChk f s
  | .br f => Sys2Proof.Machine.execBr f s
  | .brl f => Sys2Proof.Machine.execBrl f s
  | .jmp f => Sys2Proof.Machine.execJmp f s
  | .ret f => Sys2Proof.Machine.execRet f s
  | .loop f => Sys2Proof.Machine.execLoop f s
  | .yield f => Sys2Proof.Machine.execYield f s
  | .waitb f => Sys2Proof.Machine.execWaitb f s
  | .barr f => Sys2Proof.Machine.execBarr f s
  | .amo f => Sys2Proof.Machine.execAmo f s
  | .brel f => Sys2Proof.Machine.execBrel f s
  | .trap f => Sys2Proof.Machine.execTrap f s
  | .crd f => Sys2Proof.Machine.execCrd f s
  | .cwr f => Sys2Proof.Machine.execCwr f s
  | .gset f => Sys2Proof.Machine.execGset f s
  | .fadd f => Sys2Proof.Machine.execFadd f s
  | .fmul f => Sys2Proof.Machine.execFmul f s
  | .fma f => Sys2Proof.Machine.execFma f s
  | .fcvt f => Sys2Proof.Machine.execFcvt f s
  | .fcmp f => Sys2Proof.Machine.execFcmp f s
  | .actb f => Sys2Proof.Machine.execActb f s
  | .actp f => Sys2Proof.Machine.execActp f s
  | .acte f => Sys2Proof.Machine.execActe f s
  | .acta f => Sys2Proof.Machine.execActa f s
  | .acts f => Sys2Proof.Machine.execActs f s
  | .sret f => Sys2Proof.Machine.execSret f s
  | .halt f => Sys2Proof.Machine.execHalt f s
  -- V slots (Table 4.9)
  | .vadd u f => Sys2Proof.Machine.execVadd u f s
  | .vsub u f => Sys2Proof.Machine.execVsub u f s
  | .vmul u f => Sys2Proof.Machine.execVmul u f s
  | .vmad u f => Sys2Proof.Machine.execVmad u f s
  | .vand u f => Sys2Proof.Machine.execVand u f s
  | .vor u f => Sys2Proof.Machine.execVor u f s
  | .vxor u f => Sys2Proof.Machine.execVxor u f s
  | .vshl u f => Sys2Proof.Machine.execVshl u f s
  | .vshr u f => Sys2Proof.Machine.execVshr u f s
  | .vmin u f => Sys2Proof.Machine.execVmin u f s
  | .vmax u f => Sys2Proof.Machine.execVmax u f s
  | .vabs u f => Sys2Proof.Machine.execVabs u f s
  | .vcmp u f => Sys2Proof.Machine.execVcmp u f s
  | .vsel u f => Sys2Proof.Machine.execVsel u f s
  | .vfadd u f => Sys2Proof.Machine.execVfadd u f s
  | .vfsub u f => Sys2Proof.Machine.execVfsub u f s
  | .vfmul u f => Sys2Proof.Machine.execVfmul u f s
  | .vfma u f => Sys2Proof.Machine.execVfma u f s
  | .vfmin u f => Sys2Proof.Machine.execVfmin u f s
  | .vfmax u f => Sys2Proof.Machine.execVfmax u f s
  | .vfcmp u f => Sys2Proof.Machine.execVfcmp u f s
  | .vfsgn u f => Sys2Proof.Machine.execVfsgn u f s
  | .vfcvt u f => Sys2Proof.Machine.execVfcvt u f s
  | .vfrce u f => Sys2Proof.Machine.execVfrce u f s
  | .vfrse u f => Sys2Proof.Machine.execVfrse u f s
  | .vshuf u f => Sys2Proof.Machine.execVshuf u f s
  | .vbcast u f => Sys2Proof.Machine.execVbcast u f s
  | .vslide u f => Sys2Proof.Machine.execVslide u f s
  | .vzip u f => Sys2Proof.Machine.execVzip u f s
  | .vred u f => Sys2Proof.Machine.execVred u f s
  | .vscan u f => Sys2Proof.Machine.execVscan u f s
  | .vld u f => Sys2Proof.Machine.execVld u f s
  | .vst u f => Sys2Proof.Machine.execVst u f s
  | .vldt u f => Sys2Proof.Machine.execVldt u f s
  | .vldx u f => Sys2Proof.Machine.execVldx u f s
  | .vgath u f => Sys2Proof.Machine.execVgath u f s
  | .vscat u f => Sys2Proof.Machine.execVscat u f s
  | .vlde u f => Sys2Proof.Machine.execVlde u f s
  | .vpack u f => Sys2Proof.Machine.execVpack u f s
  | .vunpk u f => Sys2Proof.Machine.execVunpk u f s
  | .plog u f => Sys2Proof.Machine.execPlog u f s
  | .pmov u f => Sys2Proof.Machine.execPmov u f s
  | .vpcnt u f => Sys2Proof.Machine.execVpcnt u f s
  | .vamo u f => Sys2Proof.Machine.execVamo u f s
  -- M slot (Table 4.10)
  | .opa f => Sys2Proof.Machine.execOpa f s
  | .opar f => Sys2Proof.Machine.execOpar f s
  | .zclr f => Sys2Proof.Machine.execZclr f s
  | .zmov f => Sys2Proof.Machine.execZmov f s
  | .zld f => Sys2Proof.Machine.execZld f s
  | .zflush f => Sys2Proof.Machine.execZflush f s
  | .rcall f => Sys2Proof.Machine.execRcall f s
  | .txq f => Sys2Proof.Machine.execTxq f s
  -- C slots (Table 4.11)
  | .cpy c f => Sys2Proof.Machine.execCpy c f s
  | .cpyt c f => Sys2Proof.Machine.execCpyt c f s
  | .rack c f => Sys2Proof.Machine.execRack c f s
  | .migr c f => Sys2Proof.Machine.execMigr c f s
  | .redx c f => Sys2Proof.Machine.execRedx c f s
  | .send c f => Sys2Proof.Machine.execSend c f s
  | .recv c f => Sys2Proof.Machine.execRecv c f s
  | .kick c f => Sys2Proof.Machine.execKick c f s
  | .drain c f => Sys2Proof.Machine.execDrain c f s
  | .ckpt c f => Sys2Proof.Machine.execCkpt c f s
  | .pref c f => Sys2Proof.Machine.execPref c f s
  -- X slot (Table 4.12)
  | .cmpt f => Sys2Proof.Machine.execCmpt f s
  | .xalu f => Sys2Proof.Machine.execXalu f s
  -- the core's own steps; `p` is a physical core number
  | .bundleIssue p => Sys2Proof.Machine.execBundleIssue p s
  | .firstBundle p => Sys2Proof.Machine.execFirstBundle p s
  | .recoveryBundle p => Sys2Proof.Machine.execRecoveryBundle p s
  | .oparRepetition p => Sys2Proof.Machine.execOparRepetition p s
  | .loadArrival p id => Sys2Proof.Machine.execLoadArrival p id s
  | .segmentCommit p => Sys2Proof.Machine.execSegmentCommit p s
  | .opaEntryApply p disagreements => Sys2Proof.Machine.execOpaEntryApply p disagreements s
  | .cmptOutcome p => Sys2Proof.Machine.execCmptOutcome p s
  | .residueCheck p => Sys2Proof.Machine.execResidueCheck p s
  | .witnessReadCheck p agrees => Sys2Proof.Machine.execWitnessReadCheck p agrees s
  | .strikeReport regions lost => Sys2Proof.Machine.execStrikeReport regions lost s
  | .rollbackRestart p good => Sys2Proof.Machine.execRollbackRestart p good s
  | .scrub granules uncorrectable => Sys2Proof.Machine.execScrub granules uncorrectable s
  | .valueReturn p => Sys2Proof.Machine.execValueReturn p s
  | .waitbTimeout p => Sys2Proof.Machine.execWaitbTimeout p s
  | .rendezvous cluster => Sys2Proof.Machine.execRendezvous cluster s
  | .routineReturn p => Sys2Proof.Machine.execRoutineReturn p s
  | .graftStart p id => Sys2Proof.Machine.execGraftStart p id s
  | .graftCompletion p id => Sys2Proof.Machine.execGraftCompletion p id s
  | .graftFault p id => Sys2Proof.Machine.execGraftFault p id s
  | .stepGraftFault p id => Sys2Proof.Machine.execStepGraftFault p id s
  -- engines, homes and the solera
  | .engineCompletion op => Sys2Proof.Machine.execEngineCompletion op s
  | .engineFault op code => Sys2Proof.Machine.execEngineFault op code s
  | .sendMatch channel => Sys2Proof.Machine.execSendMatch channel s
  | .ckptGateOpen op => Sys2Proof.Machine.execCkptGateOpen op s
  | .atomicAtHome req => Sys2Proof.Machine.execAtomicAtHome req s
  | .routerMerge reqs => Sys2Proof.Machine.execRouterMerge reqs s
  | .compensatingCall p => Sys2Proof.Machine.execCompensatingCall p s
  | .compensationComplete p => Sys2Proof.Machine.execCompensationComplete p s
  -- contexts and traps
  | .trapEntry p => Sys2Proof.Machine.execTrapEntry p s
  | .asyncReport p => Sys2Proof.Machine.execAsyncReport p s
  | .softPreemption p => Sys2Proof.Machine.execSoftPreemption p s
  | .hardPreemption p => Sys2Proof.Machine.execHardPreemption p s
  | .hpeExpiry p => Sys2Proof.Machine.execHpeExpiry p s
  | .contextSave p => Sys2Proof.Machine.execContextSave p s
  | .resumption p => Sys2Proof.Machine.execResumption p s
  | .parkedSwitch p => Sys2Proof.Machine.execParkedSwitch p s
  | .kill ctx => Sys2Proof.Machine.execKill ctx s
  | .killComplete ctx => Sys2Proof.Machine.execKillComplete ctx s
  -- queues and the scheduler
  | .taskEnd p => Sys2Proof.Machine.execTaskEnd p s
  | .doorbell fn q => Sys2Proof.Machine.execDoorbell fn q s
  | .kickScan q => Sys2Proof.Machine.execKickScan q s
  | .taskLaunch q => Sys2Proof.Machine.execTaskLaunch q s
  | .taskCompletion group => Sys2Proof.Machine.execTaskCompletion group s
  | .arbiterDecision group => Sys2Proof.Machine.execArbiterDecision group s
  | .overrun p => Sys2Proof.Machine.execOverrun p s
  | .schedulerTakeover die => Sys2Proof.Machine.execSchedulerTakeover die s
  | .queueConfiguration q conf => Sys2Proof.Machine.execQueueConfiguration q conf s
  | .groupConfiguration group clusters slice hpe => Sys2Proof.Machine.execGroupConfiguration group clusters slice hpe s
  | .retry act => Sys2Proof.Machine.execRetry act s
  | .discard act => Sys2Proof.Machine.execDiscard act s
  | .abandon acts => Sys2Proof.Machine.execAbandon acts s
  | .reductionGroupConfig handle ranks => Sys2Proof.Machine.execReductionGroupConfig handle ranks s
  | .channelConfig channel sender receiver => Sys2Proof.Machine.execChannelConfig channel sender receiver s
  | .mapout die unit => Sys2Proof.Machine.execMapout die unit s
  -- translation
  | .shootdownPage ctx sz va cva => Sys2Proof.Machine.execShootdownPage ctx sz va cva s
  | .shootdownRange ctx va len cva => Sys2Proof.Machine.execShootdownRange ctx va len cva s
  | .shootdownContext ctx cva => Sys2Proof.Machine.execShootdownContext ctx cva s
  | .shootdownAll cva => Sys2Proof.Machine.execShootdownAll cva s
  | .shootdownComplete => Sys2Proof.Machine.execShootdownComplete s
  | .translationFault op => Sys2Proof.Machine.execTranslationFault op s
  | .faultRetry die entry => Sys2Proof.Machine.execFaultRetry die entry s
  | .faultDecline die entry => Sys2Proof.Machine.execFaultDecline die entry s
  | .faultTimeout die entry => Sys2Proof.Machine.execFaultTimeout die entry s
  | .pageMove op => Sys2Proof.Machine.execPageMove op s
  | .pageArrival op => Sys2Proof.Machine.execPageArrival op s
  | .foreignRead port pa len => Sys2Proof.Machine.execForeignRead port pa len s
  | .foreignWrite port pa bytes => Sys2Proof.Machine.execForeignWrite port pa bytes s
  -- reliability
  | .packetRelease endpoint => Sys2Proof.Machine.execPacketRelease endpoint s
  | .packetRebuild endpoint => Sys2Proof.Machine.execPacketRebuild endpoint s
  | .histogramCount die => Sys2Proof.Machine.execHistogramCount die s
  | .epochEnd die => Sys2Proof.Machine.execEpochEnd die s
  | .orderlyShutdown => Sys2Proof.Machine.execOrderlyShutdown s
  -- bring-up, host, links and power
  | .coldReset => Sys2Proof.Machine.execColdReset s
  | .trustedBaseFirmware => Sys2Proof.Machine.execTrustedBaseFirmware s
  | .serviceFirmware parts tiers => Sys2Proof.Machine.execServiceFirmware parts tiers s
  | .attestationRequest nonce => Sys2Proof.Machine.execAttestationRequest nonce s
  | .identityKeyRequest => Sys2Proof.Machine.execIdentityKeyRequest s
  | .lifetimeRead die => Sys2Proof.Machine.execLifetimeRead die s
  | .counterRead die => Sys2Proof.Machine.execCounterRead die s
  | .flitReceive link seq crcGood bytes => Sys2Proof.Machine.execFlitReceive link seq crcGood bytes s
  | .linkFail link => Sys2Proof.Machine.execLinkFail link s
  | .gstepTick => Sys2Proof.Machine.execGstepTick s
  | .tierDeviceFailure device => Sys2Proof.Machine.execTierDeviceFailure device s
  | .droop die => Sys2Proof.Machine.execDroop die s
  | .powerCapWindow stretched => Sys2Proof.Machine.execPowerCapWindow stretched s
  | .registerWrite r v => Sys2Proof.Machine.execRegisterWrite r v s
  | .linkRetrain link => Sys2Proof.Machine.execLinkRetrain link s
  | .schedulerCoreReload die => Sys2Proof.Machine.execSchedulerCoreReload die s
  | .crheadWrite fn v => Sys2Proof.Machine.execCrheadWrite fn v s
  | .framePoolFill tier size frames => Sys2Proof.Machine.execFramePoolFill tier size frames s
  | .atomicRequestReplay req => Sys2Proof.Machine.execAtomicRequestReplay req s

end Sys2Proof.Machine
end

