-- ==== Sys2Proof/Machine/Pick.lean ====
section
/-! DEFINITION. Which event comes next: the head of the agenda, else the earliest event of the default schedule that has an effect (log 1, log 14). -/

namespace Sys2Proof.Machine

/-- An event and the cycle in which it is due. -/
abbrev Due := Nat × Instr

/-- An event of the schedule, if its condition holds. -/
def dueIf (b : Bool) (t : Nat) (i : Instr) : List Due := if b then [(t, i)] else []

/-- The event that makes a check's outcome known. -/
def CheckKind.event (p : Nat) : CheckKind → Instr
  | .cmpt | .atomicPair => .cmptOutcome p
  | .residue => .residueCheck p
  | .witness => .witnessReadCheck p true

/-- The checks that a core awaits. -/
def checkDues (p : Nat) (c : Core) : List Due :=
  ((match c.pending with
    | some g => g.checks
    | none => []) ++ c.seg.checks).map fun k => (k.due, k.kind.event p)

/-- The loads that a core awaits. -/
def loadDues (p : Nat) (c : Core) : List Due :=
  (c.work.pend ++ c.mark.pend ++ c.com.pend).filterMap fun q => match q.load with
    | some l => if l.arrived then none else some (l.readyAt, .loadArrival p q.id)
    | none => none

/-- The grafted calls of a core: of step grade D passes before each final body mark (R32). -/
def graftDues (p now : Nat) (c : Core) : List Due :=
  c.grafts.flatMap fun (id, g) =>
    if g.started then
      [(if g.step then g.since + Config.commitDelay else now, .graftCompletion p (id, [])), (now, .graftFault p (id, false)), (now, .stepGraftFault p (id, false))]
    else [(now, .graftStart p id)]

/-- The values that a core waits for: what has come back returns now, a WAITB that can end returns as this cycle ends (R147, R153). -/
def valueDues (s : State) (p now : Nat) (c : Core) : List Due :=
  let acte (v : ValueReq) : Bool := match v.op with
    | .acte _ _ | .actb _ _ => true
    | _ => false
  dueIf ((c.value.any fun v => c.answered v) || (c.value ++ c.heldValue).any acte) now (.valueReturn p) ++ dueIf (waitDue s p) (now + 1) (.valueReturn p)

/-- What a core's pre-emption and save wait for. -/
def preemptDues (s : State) (p now : Nat) (c : Core) : List Due :=
  dueIf c.saveKind.isSome now (.contextSave p) ++
  dueIf c.overruns now (.overrun p) ++
  (match c.preempt with
    | .none | .hard _ => []
    | .soft _ since => [(now, .softPreemption p), (since + (match groupOf s p with
        | some (_, g) => g.hpe
        | none => 262144), .hpeExpiry p)])

/-- Whether the core's next bundle is a rendezvous. -/
def rzNext (s : State) (p : Nat) : Bool := match s.nextBundle p with
  | some b => (headerOf b).rz
  | none => false

/-- The issue of a running core: the return from a body, the end of the task, an OPAR's repetition, a recovery bundle, a rendezvous, a bundle. -/
def issueDues (s : State) (p : Nat) (c : Core) : List Due :=
  let t := c.turn s.cyc.toNat
  dueIf c.work.opar.isSome (Nat.max s.cyc.toNat c.repAt) (.oparRepetition p) ++
  if lastRecovery s c then [(t, .recoveryBundle p)]
  else if atReturn s c then [(t, .routineReturn p)]
  else if atEnd s c then [(t, .taskEnd p)]
  else
    dueIf c.work.recov.isSome t (.recoveryBundle p) ++
    dueIf (rzNext s p) t (.rendezvous (p / 8)) ++
    [(t, .bundleIssue p)]

/-- The events of core `p`: a hard pre-emption first (R260), then those that settle earlier bundles. -/
def coreDues (s : State) (p : Nat) (c : Core) : List Due :=
  let now := s.cyc.toNat
  dueIf c.hardAsked now (.hardPreemption p) ++
  dueIf c.restarting c.holdUntil (.rollbackRestart p true) ++
  checkDues p c ++
  (match c.pending with
    | some g => [(g.closedAt + Config.commitDelay, .segmentCommit p)]
    | none => []) ++
  loadDues p c ++
  valueDues s p now c ++
  dueIf (!c.opaq.isEmpty) c.pressAt (.opaEntryApply p 0) ++
  dueIf c.sync.isSome now (.trapEntry p) ++
  dueIf (!c.async.isEmpty) now (.asyncReport p) ++
  preemptDues s p now c ++
  dueIf c.comp.isSome now (.compensationComplete p) ++
  dueIf (!c.inserts.isEmpty) now (.compensatingCall p) ++
  graftDues p now c ++
  match c.run with
  | .idle | .ended | .saved => dueIf c.outgoing.isSome c.parkAt (.parkedSwitch p) ++ dueIf (!s.extras.isEmpty) now (.resumption p)
  | .waiting => [(c.turn now, .firstBundle p)]
  | .running => issueDues s p c
  | .ending => [(now, .taskEnd p)]
  | .halted | .stopped => []

/-- The events of a released operation. -/
def opDues (s : State) (k : Nat) (o : EngineOp) : List Due :=
  let now := s.cyc.toNat
  match o.stage with
  | .held => []
  | .waiting => match o.cmd.kind with
    | .ckpt => [(now, .ckptGateOpen k)]
    | _ => [((channelOf s o).askAt, .sendMatch (o.cmd.b.toNat % 4096))]
  | .running =>
    [(now, .engineCompletion k)] ++ dueIf (decide (o.cmd.kind = .migr)) now (.pageMove k) ++
      [(now, .engineFault k 2), (now, .engineFault k 3), (now, .engineFault k 4), (now, .engineFault k 5), (now, .engineFault k 7), (now, .engineFault k 8),
       (now, .translationFault k)]

/-- The events of engines, homes and translation. -/
def unitDues (s : State) : List Due :=
  let now := s.cyc.toNat
  (s.reqs.filterMap fun (n, r) => if r.applied then none else some (now, .atomicAtHome n)) ++
  s.moves.map (fun m => (now, if m.moved then .pageArrival m.op else .pageMove m.op)) ++
  s.ops.flatMap (fun (k, o) => opDues s k o) ++
  dueIf (!s.shootdowns.isEmpty) now .shootdownComplete ++
  s.faults.map (fun (k, e) => (e.since + s.ftoOf (k / 1024), .faultTimeout (k / 1024) (k % 1024))) ++
  dueIf (!s.scrubbing.isEmpty) now (.scrub [] ([], [])) ++
  s.quarantine.flatMap (fun (e, l) => match l with
    | [] => []
    | q :: _ => [(now, .packetRebuild e), (q.readAt + Config.commitDelay, .packetRelease e)]) ++
  s.deferred.map fun d => (d.due + 1, .histogramCount (dieOf d.core))

/-- The events of the scheduler. -/
def schedDues (s : State) : List Due :=
  let now := s.cyc.toNat
  s.dead.map (fun c => (now, .killComplete c)) ++
  s.scheds.flatMap (fun (d, k) => dueIf k.takeover now (.schedulerTakeover d) ++ match k.ends with
    | [] => []
    | (q, _) :: _ => [(now, .taskCompletion (s.queue q).conf.group.toNat)]) ++
  s.queues.flatMap (fun (q, _) => dueIf (s.kicks.getLsbD q) now (.kickScan q)) ++
  s.groups.flatMap fun (n, g) => (now, .arbiterDecision n) :: match g.chosen with
    | some q => [(now, .taskLaunch q)]
    | none => []

/-- The events of time itself; a completion in the cycle of a timeout comes before it (R147). -/
def clockDues (s : State) : List Due :=
  s.waits.map (fun w => (w.deadline, .waitbTimeout w.core)) ++ s.life.map (fun (d, l) => (l.ends, .epochEnd d)) ++ [(s.tickEnd, .gstepTick)]

/-- Inserts a due event behind those of its cycle. -/
def insertDue (d : Due) : List Due → List Due
  | [] => [d]
  | a :: l => if a.1 ≤ d.1 then a :: insertDue d l else d :: a :: l

/-- The cycles in which published stores become visible to other agents (R132). -/
def visibleDues (s : State) : List Nat :=
  ((s.cores.flatMap fun (_, c) => c.heldStores.map (·.visAt)).filter fun t => decide (s.cyc.toNat < t)).eraseDups

/-- The events with the cycles from which they may take place. -/
def allDues (s : State) : List Due :=
  let now := s.cyc.toNat
  (unitDues s ++ schedDues s ++ s.cores.flatMap (fun (p, c) => coreDues s p c) ++ clockDues s).map fun (t, i) => (Nat.max now t, i)

/-- The default schedule: each event is due as soon as its conditions allow, in the order of the lists within a cycle; what waits for a published store is looked at again when the store is visible. -/
def schedule (s : State) : List Due :=
  let l := allDues s
  (l ++ (visibleDues s).flatMap fun t => (l.filter fun d => decide (d.1 < t)).map fun d => (t, d.2)).foldl (fun l d => insertDue d l) []

/-- Whether an event at its cycle has an effect. -/
def hasEffect (s : State) (d : Due) : Bool :=
  match exec d.2 (s.until d.1) with
  | .next t => decide (t ≠ s.until d.1)
  | _ => true

/-- The next event and its cycle. -/
def pick (s : State) : Due :=
  match s.agenda with
  | i :: _ => (s.cyc.toNat, i)
  | [] => ((schedule s).find? (hasEffect s)).getD (s.cyc.toNat + 256, .gstepTick)

/-- The state in which the picked event takes place: it has left the agenda, and its cycle has come. -/
def pickState (s : State) : State := { s with agenda := s.agenda.drop 1 }.until (pick s).1

end Sys2Proof.Machine
end

