-- ==== Sys2Proof/Machine/Step.lean ====
section
/-! DEFINITION. One step of the package, and a state whose next step runs a given instruction (log 1, log 9). -/

namespace Sys2Proof.Machine

/-- One step: the next event takes place in its cycle. -/
def step (s : State) : Host.Outcome State Fault Refusal := exec (pick s).2 (pickState s)

/-- The bundle that holds one word, in the first slot whose table lists its opcode, and NOPs. -/
def wordBundle (w : SlotWord) : Bundle :=
  packBundle ((List.range 8).map fun k => if k = tableSlot w then w else 0)

/-- The register state about to issue the first bundle of an image, its registers as they are. -/
def Regs.startsAt (r : Regs) : Regs :=
  { r with
    pc := 0
    space := false
    frames := []
    loops := [Loop.idle, Loop.idle, Loop.idle, Loop.idle]
    brq := []
    opar := none
    rrec := none
    recov := none }

/-- A core about to issue the first bundle of image `img`, with nothing before it in its way. -/
def Core.startsAt (c : Core) (img : Nat) : Core :=
  { c with
    work := c.work.startsAt
    mark := c.work.startsAt
    com := c.work.startsAt
    run := .running
    image := img
    seg := Segment.opened 0 false
    pending := none
    restarting := false
    sync := none
    breakNow := none
    preempt := .none
    saveKind := none
    value := []
    comp := none
    markAfter := false
    merged := false }

/-- `s` with the word in the bundle that core 0 issues next: a loaded image of one bundle at its entry (log 9). -/
def State.withFetchWord (s : State) (_nbits w : Nat) : State :=
  let n := Store.nextKey s.images
  let i : Image := ⟨0, 0, [(0, wordBundle (BitVec.ofNat 32 w))], 1, 0, 32, [], [], 0, 2, false⟩
  { s with images := Store.put s.images n i, agenda := .bundleIssue 0 :: s.agenda }.setCore 0 ((s.core 0).startsAt n)

end Sys2Proof.Machine
end

