-- ==== Sys2Proof/Safety.lean ====
section
/-! DEFINITION. The terms that claims are stated in: a slot word that issues undisturbed, the tables of results written over exact integers, what one word may touch, and the invariants of the machine. -/

namespace Sys2Proof.Safety

open Sys2Proof.Machine

/-! ### A slot word that issues undisturbed -/

/-- Nothing stands in the way of core `s.cur`: it holds no trap, no call is being entered, its open segment has consumed no uncorrectable data and does not end in an SRET that is alone in it. -/
def calm (s : State) : Bool :=
  (s.core s.cur).sync.isNone && (s.core s.cur).enter.isNone && (s.core s.cur).seg.bad.isNone && !(s.core s.cur).onlySret (s.core s.cur).work.pc (s.core s.cur).work.space

/-- The word passes the encoding checks of R79 at the core's level, its guard lets it act (R70) and the core is calm. -/
def issues (i : Instr) (f : Fields) (s : State) : Bool :=
  operandsOk i && (!privileged i || (s.core s.cur).sup) &&
    (laneGated i (cleanFields i f) || (s.core s.cur).work.guard f.g) && calm s

/-- `s` once the fallbacks of the word have raised their WARN bits (R82). -/
def warned (i : Instr) (f : Fields) (s : State) : State := pushWarn (ctxOf i f s) (warnBits i f (s.core s.cur).lx) s

/-- `s` once a stochastic conversion has used up its counters (R55). -/
def counted (i : Instr) (f : Fields) (s : State) : State :=
  if isSR i f then s.onCore s.cur fun c => { c with srUsed := c.srUsed + 1 } else s

/-- The value an S-slot source code reads on the current core. -/
def valueS (s : State) (code : BitVec 6) : Word := (s.core s.cur).srcS code

/-- Whether an S-slot source code names a poisoned register of the current core. -/
def poisonS (s : State) (code : BitVec 6) : Bool := (s.core s.cur).srcPoison code

/-- The value a V-slot source code reads on the current core. -/
def valueV (s : State) (code : BitVec 6) : Vec := (s.core s.cur).srcV code

/-- Whether a V-slot source code names a poisoned register of the current core. -/
def poisonV (s : State) (code : BitVec 6) : Bool := (s.core s.cur).vPoison code

/-! ### Tables of results -/

/-- An exact integer kept within `lo` and `hi`, with SAT when it lay outside (R155). -/
def saturate (lo hi z : Int) : Word × BitVec 6 :=
  if lo ≤ z ∧ z ≤ hi then (BitVec.ofInt 64 z, 0) else (BitVec.ofInt 64 (max lo (min hi z)), statSAT)

/-- Table 7.1 with R156, over exact integers: the latency, the result and the STAT bits of an integer row. -/
def tableInt (i : Instr) (f : BitVec 4) (a b : Word) : Option (Nat × Word × BitVec 6) :=
  let n := f.toNat
  let wrap (z : Int) : Word × BitVec 6 := (BitVec.ofInt 64 z, 0)
  let shift := b.toNat % 64
  match i with
  | .add _ => some (1, match n with
      | 1 => saturate (-2 ^ 63) (2 ^ 63 - 1) (a.toInt + b.toInt)
      | 2 => saturate 0 (2 ^ 64 - 1) ((a.toNat : Int) + b.toNat)
      | _ => wrap (a.toInt + b.toInt))
  | .sub _ => some (1, match n with
      | 1 => saturate (-2 ^ 63) (2 ^ 63 - 1) (a.toInt - b.toInt)
      | 2 => saturate 0 (2 ^ 64 - 1) ((a.toNat : Int) - b.toNat)
      | _ => wrap (a.toInt - b.toInt))
  | .and _ => some (1, a &&& b, 0)
  | .or _ => some (1, a ||| b, 0)
  | .xor _ => some (1, a ^^^ b, 0)
  | .andn _ => some (1, a &&& ~~~b, 0)
  | .shl _ => some (1, BitVec.ofNat 64 (a.toNat * 2 ^ shift), 0)
  | .shr _ => some (1, if n = 1 then wrap (a.toInt / (2 ^ shift : Int)) else (BitVec.ofNat 64 (a.toNat / 2 ^ shift), 0))
  | .mul _ => some (3, match n with
      | 1 => wrap (a.toInt * b.toInt / (2 ^ 64 : Int))
      | 2 => (BitVec.ofNat 64 (a.toNat * b.toNat / 2 ^ 64), 0)
      | _ => wrap (a.toInt * b.toInt))
  | .div _ => some (20,
      if b = 0 then (if 2 ≤ n then a else BitVec.ofInt 64 (-1), statDZ)
      else match n with
        | 0 => (BitVec.ofNat 64 (a.toNat / b.toNat), 0)
        | 1 => wrap (Int.tdiv a.toInt b.toInt)
        | 2 => (BitVec.ofNat 64 (a.toNat % b.toNat), 0)
        | _ => wrap (Int.tmod a.toInt b.toInt))
  | .min _ => some (1, if n = 1 then (if a.toNat ≤ b.toNat then a else b) else (if a.toInt ≤ b.toInt then a else b), 0)
  | .max _ => some (1, if n = 1 then (if a.toNat ≤ b.toNat then b else a) else (if a.toInt ≤ b.toInt then b else a), 0)
  | .bitc _ => some (1, BitVec.ofNat 64 (match n with
      | 1 => ((List.range 64).takeWhile fun k => !a.getLsbD (63 - k)).length
      | 2 => ((List.range 64).takeWhile fun k => !a.getLsbD k).length
      | _ => (List.range 64).countP fun k => a.getLsbD k), 0)
  | _ => none

/-- Table 7.2: whether the condition holds. -/
def tableCond (f : BitVec 4) (a b : Word) : Prop :=
  match f.toNat with
  | 1 => a ≠ b
  | 2 => a.toInt < b.toInt
  | 3 => b.toInt ≤ a.toInt
  | 4 => a.toNat < b.toNat
  | 5 => b.toNat ≤ a.toNat
  | 6 => a.toInt ≤ b.toInt
  | 7 => b.toInt < a.toInt
  | 8 => a.toNat ≤ b.toNat
  | 9 => b.toNat < a.toNat
  | _ => a = b

/-- Where the body of a LOOP of level `n` that stands at `b` ends: `full`, or the end of an enclosing active body that ends before it (R102). -/
def loopStop (ls : List Loop) (n : Nat) (b full : Word) : Word :=
  (List.range 4).foldl (fun e k =>
    let l := ls.getD k Loop.idle
    if k ≠ n ∧ l.active = true ∧ l.start.toNat ≤ b.toNat ∧ b.toNat ≤ l.stop.toNat ∧ l.stop.toNat < e.toNat then l.stop else e) full

/-- Table 7.10: what an XALU operation 0 to 7 computes. -/
def tableX (n : Nat) (a b : Word) : Word :=
  match n with
  | 0 => BitVec.ofInt 64 (a.toInt + b.toInt)
  | 1 => BitVec.ofInt 64 (a.toInt - b.toInt)
  | 2 => a &&& b
  | 3 => a ||| b
  | 4 => a ^^^ b
  | 5 => BitVec.ofNat 64 (a.toNat * 2 ^ (b.toNat % 64))
  | 6 => BitVec.ofNat 64 (a.toNat / 2 ^ (b.toNat % 64))
  | _ => BitVec.ofInt 64 (a.toInt * b.toInt)

/-- Every bit of a predicate. -/
def predOf (b : Bool) : Word := if b then BitVec.allOnes 64 else 0

/-- The operations of PLOG bit by bit (R203). -/
def tablePlog (n : Nat) (a b : Bool) : Bool :=
  match n with
  | 0 => a && b
  | 1 => a || b
  | 2 => a ^^ b
  | 3 => a && !b
  | 4 => a || !b
  | 5 => !(a && b)
  | 6 => !(a || b)
  | _ => !(a ^^ b)

/-- The value of element `e` of a vector in a format of width `w` (R43). -/
def element (w : Nat) (v : Vec) (e : Nat) : BitVec w := v.extractLsb' (w * e) w

/-- Table 8.2 for one element: the result over exact integers, reduced to the width. -/
def tableVec (i : Instr) (signed : Bool) (w : Nat) (a b d : BitVec w) : Option (BitVec w) :=
  let val (x : BitVec w) : Int := if signed then x.toInt else x.toNat
  match i with
  | .vadd _ _ => some (BitVec.ofInt w (a.toInt + b.toInt))
  | .vsub _ _ => some (BitVec.ofInt w (a.toInt - b.toInt))
  | .vmul _ _ => some (BitVec.ofInt w (a.toInt * b.toInt))
  | .vmad _ _ => some (BitVec.ofInt w (d.toInt + a.toInt * b.toInt))
  | .vand _ _ => some (a &&& b)
  | .vor _ _ => some (a ||| b)
  | .vxor _ _ => some (a ^^^ b)
  | .vshl _ _ => some (a <<< (b.toNat % w))
  | .vshr _ _ => some (if signed then a.sshiftRight (b.toNat % w) else a >>> (b.toNat % w))
  | .vmin _ _ => some (if val b < val a then b else a)
  | .vmax _ _ => some (if val a < val b then b else a)
  | .vabs _ _ => some (BitVec.ofNat w a.toInt.natAbs)
  | .vpcnt _ _ => some (BitVec.ofNat w ((List.range w).countP fun k => a.getLsbD k))
  | _ => none

/-- The signedness and width of an integer format (Table 3.8). -/
def intShape (f : BitVec 4) : Bool × Nat :=
  match f.toNat with
  | 0 => (true, 8)
  | 1 => (false, 8)
  | 2 => (true, 16)
  | 3 => (false, 16)
  | 4 => (true, 32)
  | 5 => (false, 32)
  | _ => (true, 4)

/-! ### What one word may touch -/

/-- Two core states that agree on everything a reader of the core sees at once: the registers, flags and status of the working copy, the committed copy, the trap, mode and context registers, the tiles and what is committed. -/
def sameRegisters (c d : Core) : Prop :=
  d.work.sc = c.work.sc ∧ d.work.poison = c.work.poison ∧ d.work.atag = c.work.atag ∧ d.work.v = c.work.v ∧
    d.work.vpoison = c.work.vpoison ∧ d.work.e = c.work.e ∧ d.work.p = c.work.p ∧ d.work.g = c.work.g ∧
    d.work.stat = c.work.stat ∧ d.work.warn = c.work.warn ∧ d.work.seed = c.work.seed ∧ d.work.sridx = c.work.sridx ∧
    d.work.vrb = c.work.vrb ∧ d.work.prb = c.work.prb ∧ d.work.prof = c.work.prof ∧ d.work.goff = c.work.goff ∧
    d.mark = c.mark ∧ d.com = c.com ∧ d.bown = c.bown ∧ d.tcause = c.tcause ∧ d.tpc = c.tpc ∧ d.tinfo = c.tinfo ∧
    d.sup = c.sup ∧ d.bke = c.bke ∧ d.sstep = c.sstep ∧ d.hzd = c.hzd ∧ d.svec = c.svec ∧ d.save = c.save ∧ d.ctx = c.ctx ∧
    d.lcore = c.lcore ∧ d.tiles = c.tiles ∧ d.opaq = c.opaq ∧ d.heldStores = c.heldStores ∧ d.pending = c.pending

/-- The rest of the package as another core sees it: memory byte by byte, the other cores, queues, engines, homes and the solera. -/
def sameElsewhere (s t : State) : Prop :=
  (∀ a, t.readByte a = s.readByte a) ∧ (∀ a, t.isPoisoned a = s.isPoisoned a) ∧ (∀ q, q ≠ s.cur → t.core q = s.core q) ∧
    t.cyc = s.cyc ∧ t.gstep = s.gstep ∧ t.kicks = s.kicks ∧ t.queues = s.queues ∧ t.groups = s.groups ∧ t.tasks = s.tasks ∧
    t.acts = s.acts ∧ t.records = s.records ∧ t.ops = s.ops ∧ t.reqs = s.reqs ∧ t.window = s.window ∧ t.waits = s.waits ∧
    t.outbox = s.outbox

/-! ### Invariants -/

/-- The registers that the spec wires: s0 reads zero and holds no poison, p0 has no storage, the loop counters keep 32 bits, both rotation bases are in range (R70, R72, R101, R152). -/
def Regs.wired (r : Regs) : Bool :=
  (Store.find? r.sc 0).isNone && (Store.find? r.p 0).isNone && !r.poison.getLsbD 0 && decide (r.vrb.toNat < 24) &&
    [48, 49, 50, 51].all fun k => decide ((Store.get 0 r.sc k).toNat < 2 ^ 32)

/-- Memory is in its canonical form. -/
def memInv (s : State) : Prop := Memory.wf s.mem = true

/-- The stores of the package have strictly rising keys. -/
def coresInv (s : State) : Prop := Store.sortedFrom 0 s.cores = true

/-- The trap, mode and context registers of a core hold zero in their reserved bits (Tables 15.1 to 15.5). -/
def Core.reservedZero (c : Core) : Bool :=
  decide (c.tcause &&& ~~~0xFFF = 0) && decide (c.tpc &&& 0x1E = 0) && decide (c.svec &&& 0x1F = 0) && decide (c.save &&& 0xFFFFF = 0)

/-! ### Traps of a slot word -/

/-- `s` once the word being issued has trapped: the trap is taken at once where every older segment has committed, nothing is owed and no hard pre-emption comes first, and held until then otherwise; nothing else of the word stands (R79, R259, R260). -/
def trapped (s : State) (cause sub : Nat) (info : Word) : State :=
  let c := s.core s.cur
  let t : TrapRec := ⟨cause, sub, c.work.pc, c.work.space, info⟩
  if c.trapsNow then trapNow s s.cur false t else s.onCore s.cur fun c => { c with sync := some t }

/-- The fields of the word as its entry reads them (R71, R82). -/
def read (i : Instr) (f : Fields) : Fields := cleanFields i f

/-- Predicate `n` on the current core. -/
def valueP (s : State) (n : Nat) : Word := (s.core s.cur).work.readP n

/-- The lane guard of the word. -/
def lanes (f : Fields) (s : State) : Word := valueP s f.g.toNat

/-- Whether the address register of a V-slot access is poisoned (R195). -/
def poisonA (s : State) (k : Nat) : Bool := (s.core s.cur).work.poisonS (32 + k % 16)

/-- Whether an address operand is poisoned, or a control operand: what traps POISON_USE and is not passed on (R152, R157, R173, R184, R195, R211, R219). -/
def poisonUse (i : Instr) (f : Fields) (s : State) : Bool :=
  let x := read i f
  let on := decide (lanes x s ≠ 0)
  match i with
  | .cmp _ | .fcmp _ | .ld _ | .ldx _ | .waitb _ | .gset _ | .txq _ => poisonS s x.a || poisonS s x.b
  | .xalu _ => decide (8 ≤ x.f.toNat) && (poisonS s x.a || poisonS s x.b)
  | .ldt _ | .jmp _ | .ret _ | .loop _ | .brel _ | .yield _ | .trap _ | .acta _ | .acte _ | .acts _ | .cwr _ | .barr _
  | .actb _ | .kick _ _ => poisonS s x.a
  | .st _ => poisonS s x.a || poisonS s x.b || poisonS s x.d
  | .amo _ =>
    poisonA s (x.a.toNat % 16) || poisonS s x.b ||
      (decide (x.a.toNat / 16 % 4 < 2) && decide (x.f.toNat % 8 = 7) && poisonS s x.d)
  | .actp _ => poisonS s x.a || poisonS s x.b || (List.range 6).any fun k => (s.core s.cur).work.poisonS (52 + k)
  | .vcmp _ _ | .vfcmp _ _ => on && (poisonV s x.a || poisonV s x.b)
  | .pmov _ _ =>
    match x.f.toNat with
    | 0 => on && poisonV s x.a
    | 5 => (lanes x s).getLsbD 0 && poisonV s x.a
    | _ => false
  | .vld _ _ | .vldt _ _ | .vldx _ _ | .vlde _ _ => poisonA s x.a.toNat
  | .vst _ _ => poisonA s x.a.toNat || (on && poisonV s x.d)
  | .vgath _ _ => poisonA s x.a.toNat || (on && poisonV s x.b)
  | .vscat _ _ | .vamo _ _ => poisonA s x.a.toNat || (on && (poisonV s x.b || poisonV s x.d))
  | .opa _ | .opar _ | .zld _ => poisonV s x.a || poisonS s x.b
  | .zmov _ => (s.core s.cur).work.poisonS (x.b.toNat % 32)
  | .rack _ _ | .migr _ _ | .redx _ _ | .send _ _ | .recv _ _ | .ckpt _ _ => poisonS s x.b
  | _ => false

/-- The address and the size in bytes of a scalar access, and whether it writes (R159 to R161). -/
def scalarAccess (i : Instr) (f : Fields) (s : State) : Option (Nat × Nat × Bool) :=
  let x := read i f
  let n := 2 ^ (x.f.toNat % 4)
  match i with
  | .ld _ | .ldx _ => some (((valueS s x.a).toNat + (valueS s x.b).toNat) % 2 ^ 64, n, false)
  | .ldt _ => some ((valueS s x.a).toNat, n, false)
  | .st _ => some (((valueS s x.a).toNat + (valueS s x.b).toNat) % 2 ^ 64, n, true)
  | _ => none

/-- The latency of a scalar or contiguous vector load (Table 2.7, R160, R197). -/
def loadLatency (i : Instr) (f : Fields) (s : State) : Nat :=
  match i with
  | .ldt _ | .vldt _ _ => max 1 (read i f).b.toNat
  | _ => if (s.core s.cur).work.prof = 1 then 4 else 6

/-- `n` bytes from `loc` on as the current core's loads see them, the lowest first: the youngest cask entry of an older bundle, else memory (R111). -/
def loadValue (s : State) (loc n : Nat) : Nat :=
  ((List.range n).map fun k => (s.loadByte s.cur (loc + k)).toNat * 256 ^ k).sum

/-- `n` bytes of a value, zero-extended or sign-extended to 64 bits (R159). -/
def extended (signed : Bool) (n v : Nat) : Word := if signed then BitVec.ofInt 64 (Int.bmod v (256 ^ n)) else BitVec.ofNat 64 v

/-! ### Rows of the vector slots -/

/-- The elements of a vector over a lane count: how many elements of width `w` there are. -/
def elements (w : Nat) : Nat := 2048 / w

/-- The lane that element `e` of width `w` lies in (R183). -/
def laneAt (w e : Nat) : Nat := w * e / 32

/-- The condition of VCMP on one element (R186). -/
def vectorCond (n : Nat) (signed : Bool) {w : Nat} (a b : BitVec w) : Prop :=
  match n with
  | 1 => a ≠ b
  | 2 => if signed then a.toInt < b.toInt else a.toNat < b.toNat
  | 3 => if signed then b.toInt ≤ a.toInt else b.toNat ≤ a.toNat
  | _ => a = b

/-- The format of a vector floating-point word. -/
def floatShape (f : BitVec 4) : FloatFmt :=
  match f.toNat with
  | 7 => .bf16
  | 8 => .f16
  | 10 => .f8e4
  | 11 => .f8e5
  | _ => .f32

/-- Whether two operands compare as `o`; `none` for a NaN operand (R56). -/
def ordering (f : FloatFmt) (a b : Nat) : Option Ordering := (f.read a).order (f.read b)

/-- The condition of VFCMP on one element (R189). -/
def floatCond (n : Nat) (f : FloatFmt) (a b : Nat) : Prop :=
  match n with
  | 1 => ordering f a b = some .lt
  | 2 => ordering f a b = some .lt ∨ ordering f a b = some .eq
  | 3 => ordering f a b = none
  | _ => ordering f a b = some .eq

/-- The condition of FCMP (R173). -/
def scalarCond (n : Nat) (f : FloatFmt) (a b : Nat) : Prop :=
  match n with
  | 0 => ordering f a b = some .eq
  | 1 => ordering f a b ≠ some .eq
  | 2 => ordering f a b = some .lt
  | 3 => ordering f a b = some .lt ∨ ordering f a b = some .eq
  | 4 => ordering f a b = some .gt
  | 5 => ordering f a b = some .gt ∨ ordering f a b = some .eq
  | 6 => ordering f a b = none
  | _ => ordering f a b ≠ none

/-- The rows of R188, R190 and R192 for one element, over the exact values of the operands. -/
def tableFloat (i : Instr) (f : FloatFmt) (a b d : Nat) : Option (Nat × BitVec 6) :=
  let top := 2 ^ (f.width - 1)
  match i with
  | .vfadd _ _ => some (f.sum (f.read a) (f.read b))
  | .vfsub _ _ => some (f.sum (f.read a) (f.read b).negate)
  | .vfmul _ _ => some (f.product (f.read a) (f.read b))
  | .vfma _ _ => some (f.fused (f.read a) (f.read b) (f.read d))
  | .vfmin _ _ => some (f.select false a b, 0)
  | .vfmax _ _ => some (f.select true a b, 0)
  | .vfsgn _ _ => some (a % top + top * ((a / top + b / top) % 2), 0)
  | .vfrce _ _ => some (vfrceElem f a 0 0)
  | .vfrse _ _ => some (vfrseElem f a 0 0)
  | _ => none

/-- Table 8.4 for element `k` of `n`. -/
def tablePerm (i : Instr) (j n : Nat) {w : Nat} (a b d : Nat → BitVec w) (k : Nat) : Option (BitVec w) :=
  match i with
  | .vshuf _ _ => some (a ((b k).toNat % n))
  | .vbcast _ _ => some (if j < n then a j else 0)
  | .vslide _ _ => some (if k + j < n then a (k + j) else d (k + j - n))
  | .vzip _ _ => some (if k % 2 = 0 then a (k / 2) else b (k / 2))
  | _ => none

/-- The node of R57's tree at a level: two children combined, an absent child yielding the other. -/
def treeNode (op : Nat → Nat → Nat × BitVec 6) (leaf : Nat → Option (Nat × BitVec 6)) : Nat → Nat → Option (Nat × BitVec 6)
  | 0, k => leaf k
  | n + 1, k =>
    match treeNode op leaf n (2 * k), treeNode op leaf n (2 * k + 1) with
    | none, r => r
    | l, none => l
    | some l, some r => some ((op l.1 r.1).1, l.2 ||| r.2 ||| (op l.1 r.1).2)

/-- The leaf of an element: absent where its lane is inactive (R194). -/
def treeLeaf (w : Nat) (g : Word) (v : Vec) (e : Nat) : Option (Nat × BitVec 6) :=
  if g.getLsbD (laneAt w e) then some ((element w v e).toNat, 0) else none

/-- Two blocks of R58 combined, an absent one yielding the other. -/
def joinNodes (op : Nat → Nat → Nat × BitVec 6) : Option (Nat × BitVec 6) → Option (Nat × BitVec 6) → Option (Nat × BitVec 6)
  | none, r => r
  | l, none => l
  | some l, some r => some ((op l.1 r.1).1, l.2 ||| r.2 ||| (op l.1 r.1).2)

/-- R58's prefix over `m` elements: the aligned nodes below level `b` that begin at element `lo`, joined from left to right to what is there. -/
def prefixNode (op : Nat → Nat → Nat × BitVec 6) (node : Nat → Nat → Option (Nat × BitVec 6)) (m : Nat) :
    Nat → Nat → Option (Nat × BitVec 6) → Option (Nat × BitVec 6)
  | 0, _, acc => acc
  | b + 1, lo, acc =>
    if m / 2 ^ b % 2 = 1 then prefixNode op node m b (lo + 2 ^ b) (joinNodes op acc (node b (lo / 2 ^ b)))
    else prefixNode op node m b lo acc

/-- Whether the latency of VRED and VSCAN is that of vector FP (Table 8.1). -/
def redFloat (f : BitVec 4) : Bool := decide (7 ≤ f.toNat)

/-! ### What a slot word leaves alone -/

/-- How many effects of the kind that take a request a word reserves: a command of the C slots. -/
def isCommand (i : Instr) : Bool :=
  match i with
  | .cpy _ _ | .cpyt _ _ | .rack _ _ | .migr _ _ | .redx _ _ | .send _ _ | .recv _ _ | .ckpt _ _ | .pref _ _ | .drain _ _ => true
  | _ => false

/-- What the parts of the sequencer become: a flag only through a command that names one, a loop level only through LOOP, the branch queue only through a branch, an OPAR only through OPAR, a recovery only through CHK. -/
def sequencerKept (i : Instr) (c d : Core) : Prop :=
  (isCommand i = false → d.work.flags = c.work.flags) ∧
  ((∀ f, i ≠ .loop f) → d.work.loops = c.work.loops ∧ d.work.rrec = c.work.rrec ∧ d.skipTo = c.skipTo) ∧
  ((∀ f, i ≠ .br f ∧ i ≠ .brl f ∧ i ≠ .jmp f ∧ i ≠ .ret f ∧ i ≠ .brel f) → d.work.brq = c.work.brq) ∧
  ((∀ f, i ≠ .opar f) → d.work.opar = c.work.opar) ∧
  ((∀ f, i ≠ .chk f) → d.work.recov = c.work.recov) ∧
  d.work.frames = c.work.frames ∧ d.work.pc = c.work.pc ∧ d.work.space = c.work.space ∧ d.work.rz = c.work.rz ∧
  d.work.comps = c.work.comps ∧ d.work.bno = c.work.bno ∧ d.run = c.run

/-- What a word that issues leaves: every register of the core as before, whatever it holds back until a landing or a commit; memory byte for byte; the other cores; and the whole rest of the package but the count of free choices (R93, R109). -/
def leavesFrame (i : Instr) (s t : State) : Prop :=
  t = { s with cores := t.cores, free := t.free } ∧ (∀ q, q ≠ s.cur → t.core q = s.core q) ∧
    (∀ a, t.readByte a = s.readByte a) ∧ sameRegisters (s.core s.cur) (t.core s.cur) ∧
    sequencerKept i (s.core s.cur) (t.core s.cur)

/-- Table 7.5: what CRD reads from control register `n`, as a number. -/
def tableControl (s : State) (c : Core) (n : Nat) : Nat :=
  match n with
  | 0 => c.work.stat.toNat
  | 1 => c.work.warn.toNat
  | 2 => c.work.seed.toNat
  | 3 => c.work.sridx.toNat
  | 4 => c.work.vrb.toNat + 2 ^ 8 * c.work.prb.toNat
  | 5 => c.bown.toNat
  | 6 => s.cyc.toNat
  | 7 => s.gstep.toNat
  | 8 => c.tcause.toNat
  | 9 => c.tpc.toNat
  | 10 => c.tinfo.toNat
  | 11 => c.hzd.toNat + 2 * c.sstep.toNat + 4 * c.bke.toNat + 8 * c.sup.toNat
  | 12 => c.work.prof.toNat + 4 * c.work.body.toNat + 8 * c.work.goff.toNat
  | 13 => c.svec.toNat
  | 14 => c.ctx.toNat ||| c.save.toNat
  | _ => c.lcore.toNat

/-- Tables 3.4, 4.14, 5.2, 15.1 to 15.5 and 2.8: what a landed write of `v` to control register `n` leaves in the registers of core `d`, from those of core `c`. -/
def controlWritten (c d : Core) (n : Nat) (v : Word) : Prop :=
  let x := v.toNat
  d.work.stat.toNat = (if n = 0 then x % 2 ^ 6 else c.work.stat.toNat) ∧
  d.work.warn.toNat = (if n = 1 then x % 2 ^ 7 else c.work.warn.toNat) ∧
  d.work.seed = (if n = 2 then v else c.work.seed) ∧
  d.work.sridx = (if n = 3 then v else c.work.sridx) ∧
  d.work.vrb.toNat = (if n = 4 then (if x % 32 < 24 then x % 32 else x % 32 - 24) else c.work.vrb.toNat) ∧
  d.work.prb.toNat = (if n = 4 then x / 2 ^ 8 % 8 else c.work.prb.toNat) ∧
  d.tcause.toNat = (if n = 8 then x % 2 ^ 12 else c.tcause.toNat) ∧
  d.tpc.toNat = (if n = 9 then x / 32 * 32 + x % 2 else c.tpc.toNat) ∧
  d.tinfo = (if n = 10 then v else c.tinfo) ∧
  d.hzd = (if n = 11 then v.getLsbD 0 else c.hzd) ∧
  d.sstep = (if n = 11 then v.getLsbD 1 else c.sstep) ∧
  d.bke = (if n = 11 then v.getLsbD 2 else c.bke) ∧
  d.work.goff = (if n = 12 then v.getLsbD 3 else c.work.goff) ∧
  d.svec.toNat = (if n = 13 then x / 32 * 32 else c.svec.toNat) ∧
  d.ctx.toNat = (if n = 14 then x % 2 ^ 12 else c.ctx.toNat) ∧
  d.save.toNat = (if n = 14 then x / 2 ^ 20 * 2 ^ 20 else c.save.toNat) ∧
  d.work.prof = c.work.prof ∧ d.work.body = c.work.body ∧ d.sup = c.sup ∧ d.bown = c.bown ∧ d.lcore = c.lcore ∧
  d.work.sc = c.work.sc ∧ d.work.p = c.work.p ∧ d.work.v = c.work.v ∧ d.work.flags = c.work.flags ∧ d.work.pc = c.work.pc

/-- Whether the word may consume uncorrectable data or end a handler: the reads of a lost tile, and SRET. -/
def mayLeave (i : Instr) : Bool :=
  match i with
  | .zmov _ | .zflush _ | .sret _ => true
  | _ => false

/-! ### Words that wait for a commit -/

/-- The value operation that a word records at issue, given the location of its object (R153, R168, R176, R178). -/
def valueOp (i : Instr) (f : Fields) (s : State) (loc : Nat) : Option ValueOp :=
  let x := read i f
  let a := (valueS s x.a).toNat
  let b := (valueS s x.b).toNat
  match i with
  | .barr _ => some (.barr x.d.toNat loc)
  | .waitb _ => some (.waitb x.d.toNat loc (BitVec.ofNat 16 b) (b / 2 ^ 16 % 2 ^ 32))
  | .actb _ => some (.actb x.d.toNat loc)
  | .acte _ => some (.acte x.d.toNat (a % 256))
  | .acts _ => some (.acts x.d.toNat (a % 256))
  | _ => none

/-- Whether the word names a completion object. -/
def namesObject (i : Instr) : Bool :=
  match i with
  | .barr _ | .waitb _ | .actb _ => true
  | _ => false

/-- The operation of AMO by its type field and F (Table 7.4). -/
def tableAmo (x : Fields) : AtomOp :=
  if 32 ≤ x.a.toNat then .fadd
  else match x.f.toNat % 8 with
    | 0 => .add
    | 1 => .min
    | 2 => .max
    | 3 => .and
    | 4 => .or
    | 5 => .xor
    | 6 => .exch
    | _ => .cas

/-- The width of an AMO in bytes by its type field (Table 7.4). -/
def amoWidth (x : Fields) : Nat :=
  match x.a.toNat / 16 with
  | 0 => 8
  | 3 => 2
  | _ => 4

/-- What a word leaves for its segment's commit, and whether a mark follows its bundle (R165, R166, R177 to R179, R231). An ACTP whose B is all ones names no activity, which the model writes as 256 (log 87). -/
def commitEffect (i : Instr) (f : Fields) (s : State) : Option (Effect × Bool) :=
  let x := read i f
  let a := (valueS s x.a).toNat
  match i with
  | .yield _ => some (.yield (max 1 (min a 65536)), true)
  | .acta _ => some (.acta (a % 256), false)
  | .halt _ => some (.halt, true)
  | .kick _ _ => some (.kick (a % 4096), false)
  | .actp _ =>
    some (.push (x.f.toNat % 4 * 64 + x.d.toNat) (BitVec.ofNat 32 a) (if valueS s x.b = BitVec.allOnes 64 then 256 else (valueS s x.b).toNat % 256)
      ((List.range 6).map fun k => (s.core s.cur).work.readS (52 + k)), false)
  | _ => none

/-- What the word has to meet for it: KICK a queue of the core's own partition, ACTP a routine of the image (R177, R231). -/
def commitAllowed (i : Instr) (f : Fields) (s : State) : Prop :=
  let x := read i f
  match i with
  | .kick _ _ =>
    ∃ n, queuePartition s ((valueS s x.a).toNat % 4096) = some n ∧ partitionOf s (s.cur / 8) = some n
  | .actp _ => x.f.toNat % 4 * 64 + x.d.toNat < (s.imageOf (s.core s.cur)).routines.length
  | _ => True

/-- The kind of a command word. -/
def commandKind (i : Instr) : Option CmdKind :=
  match i with
  | .cpy _ _ => some .cpy
  | .cpyt _ _ => some .cpyt
  | .rack _ _ => some .rack
  | .migr _ _ => some .migr
  | .redx _ _ => some .redx
  | .send _ _ => some .send
  | .recv _ _ => some .recv
  | .drain _ _ => some .drain
  | .ckpt _ _ => some .ckpt
  | .pref _ _ => some .pref
  | _ => none

/-- A branch's target, in bundles from the word's own for the displaced forms (R96, R163, R165). -/
def branchTarget (i : Instr) (f : Fields) (s : State) : Option Word :=
  let x := read i f
  let pc := (s.core s.cur).work.pc
  match i with
  | .br _ | .brl _ => some (pc + 32 * (x.d ++ x.a ++ x.b).signExtend 64)
  | .jmp _ | .ret _ => some (valueS s x.a)
  | .brel _ => if x.f.toNat % 2 = 1 then some (pc + 32 * (x.d ++ x.b).signExtend 64) else none
  | _ => none

/-! ### Vector accesses and the press -/

/-- The address of lane `l` of a vector access: consecutive words, or the base and a signed index (R196, R198, R205). -/
def laneAddress (i : Instr) (f : Fields) (s : State) (l : Nat) : Nat :=
  let x := read i f
  let a := (s.core s.cur).work.readA (x.a.toNat % 16)
  match i with
  | .vgath _ _ | .vscat _ _ | .vamo _ _ => (a + (element 32 (valueV s x.b) l).signExtend 64).toNat
  | _ => (a + BitVec.ofNat 64 (4 * l)).toNat

/-- The size of the whole access of VLD and its kin: 256 >> F[1:0] bytes (R196). -/
def contiguousSize (x : Fields) : Nat := 256 / 2 ^ (x.f.toNat % 4)

/-- The bytes that each lane of an indexed access moves (R198). -/
def indexedBytes (x : Fields) : Nat :=
  match x.f.toNat % 4 with
  | 0 => 4
  | 1 => 2
  | _ => 1

/-- The lanes of a vector access that make an access, ascending (R195, R196). -/
def accessLanes (i : Instr) (f : Fields) (s : State) : List Nat :=
  let x := read i f
  (List.range 64).filter fun l => (lanes x s).getLsbD l && (match i with
    | .vgath _ _ | .vscat _ _ | .vamo _ _ => true
    | _ => decide (4 * l < contiguousSize x))

/-- What R126 and the entry say of the access of lane `l` (R195, R196, R198, R205). -/
def laneCheck (i : Instr) (f : Fields) (s : State) (l : Nat) : Except AccFault Nat :=
  let x := read i f
  let va := laneAddress i f s l
  match i with
  | .vgath _ _ => ownBarrel s s.cur va (indexedBytes x) (indexedBytes x) false
  | .vscat _ _ => ownBarrel s s.cur va (indexedBytes x) (indexedBytes x) true
  | .vamo _ _ => atomicLoc s s.cur va 4
  | _ =>
    match access s s.cur va 4 1 (match i with
      | .vst _ _ => true
      | _ => false) with
    | .error e => .error e
    | .ok loc =>
      if ((s.core s.cur).work.readA (x.a.toNat % 16)).toNat % contiguousSize x = 0 then .ok loc else .error .misalign

/-- Whether the word is a vector access whose checks go lane by lane. -/
def isVectorAccess (i : Instr) : Bool :=
  match i with
  | .vld _ _ | .vst _ _ | .vldt _ _ | .vldx _ _ | .vgath _ _ | .vscat _ _ | .vamo _ _ => true
  | _ => false

/-- The value that a lane of a vector load receives from its location: its bytes, sign-extended for the .bs form, and zero beyond a short access (R196, R198). -/
def laneValue (i : Instr) (f : Fields) (s : State) (l loc : Nat) : BitVec 32 :=
  let x := read i f
  match i with
  | .vgath _ _ =>
    if x.f.toNat % 4 = 3 then (BitVec.ofNat 8 (loadValue s loc 1)).signExtend 32 else BitVec.ofNat 32 (loadValue s loc (indexedBytes x))
  | _ => if 4 * l < contiguousSize x then BitVec.ofNat 32 (loadValue s loc 4) else 0

/-- Where the write of a V-slot destination goes: a v register by its physical number, or an e register. -/
def vectorDest (s : State) (d : BitVec 6) : Dest :=
  if 48 ≤ d.toNat then .scale (d.toNat - 48) else .vector ((s.core s.cur).work.physV d.toNat)

/-- The lanes of a pending write that it writes: those of the guard; for an e register the bytes of those lanes (R183). -/
def vectorMask (d : BitVec 6) (g : Word) : Word := if 48 ≤ d.toNat then laneToByteMask g else g

/-- The post-increment of a contiguous access, 32 bytes a unit (R196); a step of 0 writes nothing (log 16). -/
def stepWritten (i : Instr) (f : Fields) (s : State) (t : State) : State :=
  let x := read i f
  match i with
  | .vld _ _ | .vst _ _ | .vldx _ _ =>
    if x.b = 0 then t
    else putS (ctxOf i f s) 1 (BitVec.ofNat 6 (32 + x.a.toNat % 16))
      ((s.core s.cur).work.readA (x.a.toNat % 16) + 32 * x.b.signExtend 64) false 0 t
  | _ => t

/-- The row of the own B-plane that an OPA may name: wholly inside its window and a multiple of 128 (R211). -/
def rowsOk (va n : Nat) : Prop := 0x80000 ≤ va ∧ va + 128 * n ≤ 0xC0000 ∧ va % 128 = 0

/-- The queue entry of a press word that is applied after its commit (R211, R213, R214). -/
def pressEntry (i : Instr) (f : Fields) (s : State) : Option TileOp :=
  let x := read i f
  match i with
  | .opa _ => some (.opa (x.d.toNat % 8) x.f.toNat (x.d.getLsbD 3) (valueV s x.a) (coreLoc s.cur (valueS s x.b).toNat)
      (s.core s.cur).work.pc (s.core s.cur).work.space)
  | .zclr _ => some (.zclr (x.f.getLsbD 0) x.d.toNat)
  | .zld _ => some (.zld x.d.toNat ((valueS s x.b).toNat % 64) (x.f.getLsbD 0) (valueV s x.a))
  | _ => none

/-- What a tile read adds to the core: one more read, and the check of the witness unless it stands in for a column (R117, R315, R317). -/
def tileRead (s : State) (c : Core) : Core :=
  { c with
    reads := c.reads + 1
    seg := { c.seg with
      checks := c.seg.checks ++ (if c.standIn.isSome then []
        else [⟨.witness, s.cyc.toNat + 5, c.work.pc, c.work.space, false, [0x140 + 4 * (c.reads % 64)]⟩]) } }

/-! ### Steps that are no slot word -/

/-- The instruction completes with a next state of which `P` holds. -/
def answers (i : Instr) (s : State) (P : State → Prop) : Prop := ∃ t, exec i s = .next t ∧ P t

/-- Nothing but core `p` has changed. -/
def onlyCore (p : Nat) (s t : State) : Prop := t = { s with cores := t.cores } ∧ ∀ q, q ≠ p → t.core q = s.core q

/-- An RCALL that core `p` held is over: what it recorded of its operands is gone (R27). -/
def callOver (p : Nat) (t : State) : State := if (t.core p).callQ.isNone then t else t.onCore p fun c => { c with callQ := none }

/-- Core `p` has been rolled back to its committed copy and restarts 8 cycles later (R116, R312). -/
def rolledBack (p : Nat) (s t : State) : Prop :=
  let c := s.core p
  let d := t.core p
  d.work = c.com ∧ d.mark = c.com ∧ d.com = c.com ∧ d.pending = none ∧ d.seg = Segment.opened c.com.pc c.com.space ∧
    d.restarting = true ∧ d.holdUntil = s.cyc.toNat + 8 ∧ d.rolls = c.rolls + 1

/-- A word that reads a lost tile consumes uncorrectable data: its core rolls back to restart, and the second time at one bundle it is to trap UNCORRECTABLE there (R116, R310, R312). -/
def consumesTile (i : Instr) (s : State) : Prop :=
  let c := s.core s.cur
  let here := some (c.work.pc, c.work.space)
  (c.badRec ≠ here → answers i s fun t => rolledBack s.cur s t ∧ (t.core s.cur).badRec = here ∧ (t.core s.cur).tiles = c.tiles) ∧
  (c.badRec = here → answers i s fun t => ∃ r, (t.core s.cur).sync = some r ∧ r.cause = 7 ∧ r.sub = 0 ∧
    r.pc = c.work.pc ∧ r.space = c.work.space)

/-- The checks that a core awaits, those of the closed segment first. -/
def checksOf (c : Core) : List Check :=
  (match c.pending with
    | some g => g.checks
    | none => []) ++ c.seg.checks

/-- Cell `k` of a tile: row k / 64, column k % 64. -/
def cellOf (z : Tile) (k : Nat) : Cell := Store.get Cell.zero z.cells k

/-- The 128 bytes of a row of the B-plane, the lowest first. -/
def rowValue (s : State) (loc : Nat) : Nat := ((List.range 128).map fun k => (s.readByte (loc + k)).toNat * 256 ^ k).sum

/-- The products of cell `k` under an OPA, in their order: element i of the upper or lower half of the column and element j of each group of the row (R211). -/
def products (fmt : Nat) (high : Bool) (col : Vec) (row k : Nat) : List (Nat × Nat) :=
  let w := fmtWidth fmt
  (List.range (pressRank fmt)).map fun n =>
    ((element w col (64 * (if high then pressRank fmt else 0) + 64 * n + k / 64)).toNat,
      row / 2 ^ (w * (64 * n + k % 64)) % 2 ^ w)

/-- The cores of a cluster that have issued the fewest rendezvous bundles (R118). -/
def behind (s : State) (cluster p : Nat) : Prop :=
  p / 8 = cluster ∧ ∀ q, q / 8 = cluster → (s.core p).work.rz.toNat ≤ (s.core q).work.rz.toNat

/-- The byte that a list of writes leaves at a location. -/
def lastWritten (bs : List (Nat × Byte)) (old : Byte) (a : Nat) : Byte :=
  bs.foldl (fun v b => if b.1 = a then b.2 else v) old

/-- What an access of a private copy in flight keeps apart from its arrival. -/
def arrivedAs (q : Pending) : Pending := { q with load := q.load.map fun l => { l with arrived := true } }

/-- Operation `k` has ended and its flag, where it is the running code's and no other operation or call is bound to it, is set (R219, R221). -/
def opGone (k : Nat) (o : EngineOp) (s t : State) : Prop :=
  Store.find? t.ops k = none ∧
  (∀ n, o.cmd.flag = some ((s.core o.core).work.frames.length, n) → o.savedAt = none →
    flagBound { s with ops := Store.erase s.ops k } o.core n = false → n < 16 → (t.core o.core).work.flags.getLsbD n = true)

/-- A service command finds its die's scheduler in charge (R286, R287). -/
def inCharge (s : State) (die : Nat) : Prop := (s.sched die).takeover = false

/-- Table 7.4 on a location of `w` bits: its new value from the old one, the operand and, for CAS, the compared value; FADD rounds the exact sum in f32 or bf16. -/
def tableAtomic (op : AtomOp) (w : Nat) (bf16 : Bool) (old operand cmp : Nat) : Nat :=
  let b := operand % 2 ^ w
  match op with
  | .add => (old + b) % 2 ^ w
  | .min => if (BitVec.ofNat w b).toInt < (BitVec.ofNat w old).toInt then b else old
  | .max => if (BitVec.ofNat w old).toInt < (BitVec.ofNat w b).toInt then b else old
  | .minu => min old b
  | .maxu => max old b
  | .and => (BitVec.ofNat w old &&& BitVec.ofNat w b).toNat
  | .or => (BitVec.ofNat w old ||| BitVec.ofNat w b).toNat
  | .xor => (BitVec.ofNat w old ^^^ BitVec.ofNat w b).toNat
  | .exch => b
  | .cas => if old = cmp % 2 ^ w then b else old
  | .fadd =>
    let f := if bf16 then FloatFmt.bf16 else FloatFmt.f32
    (f.sum (f.read old) (f.read b)).1
  | .arrive => arriveVal old

/-- A queue that a function's doorbell may name: one of its partition (R274, R326). -/
def mayRing (s : State) (fn q : Nat) : Prop := ∃ k, ∃ t ∈ s.parts[k]?, queuePartition s q = some k ∧ fn ∈ t.functions

/-- A core that runs a context (R268). -/
def occupies (s : State) (ctx p : Nat) : Prop :=
  (s.core p).ctx.toNat = ctx ∧ (s.core p).run ≠ .idle ∧ (s.core p).run ≠ .saved

/-- A location in no copy of a solera record. -/
def outsideRecords (s : State) (a : Nat) : Prop :=
  ∀ r ∈ s.records, ∀ m : Bool, a < copyLoc m r ∨ copyLoc m r + (recordBytes m r).length ≤ a

/-- Two register states that agree on everything but what is pending. -/
def sameButPending (a b : Regs) : Prop := { a with pend := [] } = { b with pend := [] }

/-- No operation, call, or body that runs in place of one, of core `p` is bound to flag `fl`, those numbered `k` and `id` apart (R221). -/
def flagFree (s : State) (p : Nat) (fl : Nat × Nat) (id : Nat) : Prop :=
  (∀ e ∈ s.ops, e.2.core = p → e.2.savedAt = none → e.2.cmd.flag ≠ some fl) ∧
    (∀ g ∈ (s.core p).grafts, g.1 ≠ id → g.2.call.flag ≠ some fl) ∧ (∀ i ∈ (s.core p).inserts, i.flag ≠ some fl) ∧
    (s.core p).seg.binds fl = false ∧ ∀ g, (s.core p).pending = some g → g.binds fl = false

/-- Nothing of core `p` waits at a bank or at the press. -/
def settled (s : State) (p : Nat) : Prop := (s.core p).heldStores = [] ∧ (s.core p).opaq = []

/-- The locations of element `j` of an operation's destination, byte by byte, and those of its source; none where they cannot be told. -/
def destOf (s : State) (o : EngineOp) (j : Nat) : List Nat :=
  match ((destVAs o.cmd.desc)[j]?).map fun va => o.elem s va (descEsize o.cmd.desc) true with
  | some (.ok l) => l
  | _ => []
def sourceOf (s : State) (o : EngineOp) (j : Nat) : List Nat :=
  match ((sourceVAs o.cmd.desc)[j]?).map fun va => o.elem s va o.cmd.sourceSize false with
  | some (.ok l) => l
  | _ => []

/-- All of them, in iteration order. -/
def allDest (s : State) (o : EngineOp) : List Nat := (List.range (destVAs o.cmd.desc).length).flatMap (destOf s o)
def allSource (s : State) (o : EngineOp) : List Nat := (List.range (sourceVAs o.cmd.desc).length).flatMap (sourceOf s o)

/-- Element `j` of an operation is written where no other element of it writes, each byte once, and no byte of its own source is written. -/
def apart (s : State) (o : EngineOp) (j : Nat) : Prop :=
  (destOf s o j).Nodup ∧ (∀ a ∈ destOf s o j, outsideRecords s a) ∧
    ∀ i, (i ≠ j → ∀ a ∈ destOf s o j, a ∉ destOf s o i) ∧ ∀ a ∈ sourceOf s o j, a ∉ destOf s o i

/-- What an element's source bytes become on their way: RACK converts as Table 9.9 gives, the others copy (R225 to R227). -/
def tableCopy (c : Command) (bs : List Byte) : List Byte :=
  match c.kind with
  | .rack => match c.f.toNat % 4 with
    | 0 => bs
    | 1 => toBytes 2 (FloatFmt.bf16.round .rne (FloatFmt.f32.read (ofBytes bs))).1
    | 2 => toBytes 2 (FloatFmt.f16.round .rne (FloatFmt.f32.read (ofBytes bs))).1
    | _ => toBytes 4 (FloatFmt.f32.round .rne (FloatFmt.bf16.read (ofBytes bs))).1
  | _ => bs

/-- R229 on one element: the ranks' contributions combined in the order of the ranks; floats in f32, a bf16 result rounded at the end. -/
def tableRedx (f : BitVec 4) (xs : List Nat) : Nat :=
  let g := FloatFmt.f32
  let real (acc x : Nat) : Nat := match f.toNat % 4 with
    | 1 => g.select false acc x
    | 2 => g.select true acc x
    | _ => (g.round .rne ((g.read acc).add (g.read x)).1).1
  let int (w acc x : Nat) : Nat := match f.toNat % 4 with
    | 1 => if (BitVec.ofNat w x).toInt < (BitVec.ofNat w acc).toInt then x else acc
    | 2 => if (BitVec.ofNat w acc).toInt < (BitVec.ofNat w x).toInt then x else acc
    | _ => (acc + x) % 2 ^ w
  let wide (x : Nat) : Nat := (g.round .rne (FloatFmt.bf16.read x)).1
  let ys := if f.toNat / 4 = 1 then xs.map wide else xs
  match ys with
  | [] => 0
  | y :: l => match f.toNat / 4 with
    | 0 => l.foldl real y
    | 1 => (FloatFmt.bf16.round .rne (g.read (l.foldl real y))).1
    | 2 => l.foldl (int 32) y
    | _ => l.foldl (int 64) y

end Sys2Proof.Safety
end

