-- ==== Sys2Proof/Certificates/Slice0/Obligations.lean ====
section
/-! DEFINITION. The statements for the provers. -/

open Sys2Proof Sys2Proof.Machine Sys2Proof.Safety

/-! ### Words of the S and X slots -/

/-- R69: a NOP word has no effect but the WARN bit NOPX where one of its bits is set. R70, R82, R95: with a false guard a word outside the V slots has no effect but its WARN bits, and an SR conversion still uses up its counters. -/
def Obligations.NoEffect : Prop :=
  (∀ (f : Fields) (s : State), calm s = true →
      (f = ⟨0, 0, 0, 0, 0⟩ → exec (.nop f) s = .next s) ∧
      (f ≠ ⟨0, 0, 0, 0, 0⟩ →
        exec (.nop f) s = .next (pushWrite (ctxOf (.nop f) f s) 1 .nothing 0 (fun q => { q with warn := 4 }) s))) ∧
  (∀ (i : Instr) (f : Fields) (s : State), slotFields i = some f → calm s = true → operandsOk i = true →
      (privileged i = false ∨ (s.core s.cur).sup = true) → laneGated i (read i f) = false →
      (s.core s.cur).work.guard f.g = false → (i = .rcall f → (s.core s.cur).callQ = none) → exec i s = .next (counted i f (warned i f s)))

/-- R155 and R156: an integer row (ADD, SUB, AND, OR, XOR, ANDN, SHL, SHR, MUL, DIV, MIN, MAX, BITC) whose guard is true writes D after the latency of its row with the result of Table 7.1 over exact integers; a poisoned source gives a poisoned 0 and no STAT bit (R152). -/
def Obligations.IntegerRowResult : Prop :=
  ∀ (i : Instr) (f : Fields) (s : State) (lat : Nat) (v : Word) (st : BitVec 6),
    slotFields i = some f → issues i f s = true →
    tableInt i (read i f).f (valueS s (read i f).a) (valueS s (read i f).b) = some (lat, v, st) →
    exec i s = .next (
      if poisonS s (read i f).a || poisonS s (read i f).b
      then putS (ctxOf i f s) lat (read i f).d 0 true 0 (warned i f s)
      else putS (ctxOf i f s) lat (read i f).d v false st (warned i f s))

/-- R156: DIV truncates toward zero and a remainder takes the sign of A; division by zero gives all ones or A and raises DZ; the most negative number divided by −1 gives itself and remainder 0; no other case sets a STAT bit. -/
def Obligations.DivisionCases : Prop :=
  ∀ (f : Fields) (s : State), issues (.div f) f s = true → poisonS s f.a = false → poisonS s f.b = false →
    let a := valueS s f.a
    let b := valueS s f.b
    let signed := (read (.div f) f).f.toNat % 2 = 1
    let rem := 2 ≤ (read (.div f) f).f.toNat
    let writes (v : Word) (st : BitVec 6) : Prop :=
      exec (.div f) s = .next (putS (ctxOf (.div f) f s) 20 f.d v false st (warned (.div f) f s))
    (b = 0 → ¬ rem → writes (BitVec.allOnes 64) statDZ) ∧
    (b = 0 → rem → writes a statDZ) ∧
    (signed → a = BitVec.ofInt 64 (-2 ^ 63) → b = BitVec.ofInt 64 (-1) → ¬ rem → writes (BitVec.ofInt 64 (-2 ^ 63)) 0) ∧
    (signed → a = BitVec.ofInt 64 (-2 ^ 63) → b = BitVec.ofInt 64 (-1) → rem → writes 0 0) ∧
    (¬ signed → b ≠ 0 → ∃ q r : Nat, a.toNat = b.toNat * q + r ∧ r < b.toNat ∧
      (¬ rem → writes (BitVec.ofNat 64 q) 0) ∧ (rem → writes (BitVec.ofNat 64 r) 0)) ∧
    (signed → b ≠ 0 → ∃ q r : Int, a.toInt = b.toInt * q + r ∧ r.natAbs < b.toInt.natAbs ∧ 0 ≤ r * a.toInt ∧
      (¬ rem → writes (BitVec.ofInt 64 q) 0) ∧ (rem → writes (BitVec.ofInt 64 r) 0))

/-- R157: CMP writes every bit of pD with the outcome of Table 7.2 at the next bundle; a write to p0 is discarded. R157: SEL writes the operand that bit 0 of its predicate selects, and takes poison from that operand alone (R152). -/
def Obligations.CompareAndSelect : Prop :=
  (∀ (f : Fields) (s : State), issues (.cmp f) f s = true →
      let x := read (.cmp f) f
      (poisonUse (.cmp f) f s = true → exec (.cmp f) s = .next (trapped s 6 0 1)) ∧
      (poisonUse (.cmp f) f s = false → x.d = 0 → exec (.cmp f) s = .next (warned (.cmp f) f s)) ∧
      (poisonUse (.cmp f) f s = false → x.d ≠ 0 → tableCond x.f (valueS s x.a) (valueS s x.b) →
        exec (.cmp f) s = .next (putP (ctxOf (.cmp f) f s) 1 x.d.toNat (BitVec.allOnes 64) (BitVec.allOnes 64) (warned (.cmp f) f s))) ∧
      (poisonUse (.cmp f) f s = false → x.d ≠ 0 → ¬ tableCond x.f (valueS s x.a) (valueS s x.b) →
        exec (.cmp f) s = .next (putP (ctxOf (.cmp f) f s) 1 x.d.toNat 0 (BitVec.allOnes 64) (warned (.cmp f) f s)))) ∧
  (∀ (f : Fields) (s : State), issues (.sel f) f s = true →
      ∃ c, c = (if (valueP s f.f.toNat).getLsbD 0 then f.a else f.b) ∧
        exec (.sel f) s = .next (putS (ctxOf (.sel f) f s) 1 f.d (valueS s c) (poisonS s c) 0 (warned (.sel f) f s)))

/-- R182 and Table 7.10: XALU computes what the S-slot form computes, and its compares write a predicate as CMP does. -/
def Obligations.DuplicateAlu : Prop :=
  ∀ (f : Fields) (s : State), issues (.xalu f) f s = true → poisonUse (.xalu f) f s = false →
    let x := read (.xalu f) f
    let c := ctxOf (.xalu f) f s
    let w := warned (.xalu f) f s
    (x.f.toNat < 8 → exec (.xalu f) s = .next (
      if poisonS s x.a || poisonS s x.b then putS c (if x.f = 7 then 3 else 1) x.d 0 true 0 w
      else putS c (if x.f = 7 then 3 else 1) x.d (tableX x.f.toNat (valueS s x.a) (valueS s x.b)) false 0 w)) ∧
    (8 ≤ x.f.toNat → ∀ b : Bool, (b = true ↔ tableCond (x.f - 8) (valueS s x.a) (valueS s x.b)) →
      exec (.xalu f) s = .next (putP c 1 x.d.toNat (predOf b) (BitVec.allOnes 64) w))

/-- R158: MOV, LI and AADD write their value and, to an address register, the alias tag K; a scale is F[3:2]. -/
def Obligations.MoveResult : Prop :=
  ∀ (i : Instr) (f : Fields) (s : State) (v : Word) (b : Bool), slotFields i = some f → issues i f s = true →
    ((∃ g, i = .mov g) ∧ v = valueS s f.a ∧ b = poisonS s f.a ∨
     (∃ g, i = .li g) ∧ v = (if (s.core s.cur).lx then (s.core s.cur).lit.signExtend 64 else 0) ∧ b = false ∨
     (∃ g, i = .aadd g) ∧ v = valueS s f.a + valueS s f.b * BitVec.ofNat 64 (2 ^ (f.f.toNat / 4)) ∧
       b = (poisonS s f.a || poisonS s f.b)) →
    (32 ≤ f.d.toNat → f.d.toNat ≤ 47 →
      exec i s = .next (pushWrite (ctxOf i f s) 1 (.scalar f.d.toNat) ((if b then 0 else v).setWidth 2048)
        (fun q => { q with poison := b, tag := some ((read i f).f.setWidth 2) }) (warned i f s))) ∧
    (f.d.toNat < 32 ∨ 47 < f.d.toNat → exec i s = .next (putS (ctxOf i f s) 1 f.d v b 0 (warned i f s)))

/-- R172: FADD, FMUL and FMA round their exact result once, in f32 or f64 as F[0] says; F[1] negates the addend and F[2] the product; FMA reads D before the bundle. R174: FCVT rounds the value of A in the source format to the destination format, with the mode of its word; an i32 result is sign-extended. A conversion in SR mode uses up its counters (R55). -/
def Obligations.ScalarFloatResult : Prop :=
  (∀ (i : Instr) (f : Fields) (s : State) (r : Nat × BitVec 6) (b : Bool), slotFields i = some f → issues i f s = true →
      let x := read i f
      let m : FloatFmt := if x.f.getLsbD 0 then .f64 else .f32
      let val (v : Word) : XReal := m.read (v.toNat % 2 ^ m.width)
      let sign (n : Bool) (y : XReal) : XReal := if n then y.negate else y
      ((∃ g, i = .fadd g) ∧ r = m.sum (val (valueS s x.a)) (sign (x.f.getLsbD 1) (val (valueS s x.b))) ∧
         b = (poisonS s x.a || poisonS s x.b) ∨
       (∃ g, i = .fmul g) ∧ r = m.product (val (valueS s x.a)) (val (valueS s x.b)) ∧ b = (poisonS s x.a || poisonS s x.b) ∨
       (∃ g, i = .fma g) ∧
         r = m.fused (sign (x.f.getLsbD 2) (val (valueS s x.a))) (val (valueS s x.b)) (sign (x.f.getLsbD 1) (val (valueS s x.d))) ∧
         b = (poisonS s x.a || poisonS s x.b || poisonS s x.d)) →
      exec i s = .next (putS (ctxOf i f s) 4 x.d (BitVec.ofNat 64 r.1) b (if b then 0 else r.2) (warned i f s))) ∧
  (∀ (f : Fields) (s : State), issues (.fcvt f) f s = true →
      let x := read (.fcvt f) f
      let src := fcvtFmt (x.b.toNat % 8)
      let dst := fcvtFmt (x.b.toNat / 8)
      let mode := modeOf (effMode (.fcvt x) x) (srWord (s.core s.cur).work.seed (s.core s.cur).srBase)
      let r := dst.round mode (src.read ((valueS s x.a).toNat % 2 ^ src.width))
      let v : Word := if x.b.toNat / 8 = 7 then (BitVec.ofNat 32 r.1).signExtend 64 else BitVec.ofNat 64 r.1
      exec (.fcvt f) s = .next (counted (.fcvt f) f
        (putS (ctxOf (.fcvt f) f s) 4 x.d v (poisonS s x.a) (if poisonS s x.a then 0 else r.2) (warned (.fcvt f) f s))))

/-- R173: FCMP sets every bit of pD to its condition, false for a NaN operand but for .ne and .un, raises no STAT bit, and traps POISON_USE on a poisoned source. -/
def Obligations.FloatCompare : Prop :=
  ∀ (f : Fields) (s : State) (b : Bool), issues (.fcmp f) f s = true →
    let x := read (.fcmp f) f
    let m : FloatFmt := if x.f.getLsbD 3 then .f64 else .f32
    (poisonUse (.fcmp f) f s = true → exec (.fcmp f) s = .next (trapped s 6 0 1)) ∧
    (poisonUse (.fcmp f) f s = false →
      (b = true ↔ scalarCond (x.f.toNat % 8) m ((valueS s x.a).toNat % 2 ^ m.width) ((valueS s x.b).toNat % 2 ^ m.width)) →
      (x.d = 0 → exec (.fcmp f) s = .next (warned (.fcmp f) f s)) ∧
      (x.d ≠ 0 → exec (.fcmp f) s =
        .next (putP (ctxOf (.fcmp f) f s) 4 x.d.toNat (predOf b) (BitVec.allOnes 64) (warned (.fcmp f) f s))))

/-- R159, R160: a load whose access passes puts into flight a write of D after its latency that delivers the bytes, lowest address first, zero- or sign-extended; a load to s0 writes nothing. The value is read at issue (log 5). R161: LDX delivers a poisoned 0 in place of a SEGV or PERM trap and of uncorrectable data, and otherwise what LD would deliver; a value that a wait at its bank or a scrub holds is read, and found bad or good, when that ends. -/
def Obligations.ScalarLoad : Prop :=
  (∀ (i : Instr) (f : Fields) (s : State) (va n loc : Nat), (i = .ld f ∨ i = .ldt f) → issues i f s = true →
      poisonUse i f s = false → scalarAccess i f s = some (va, n, false) → access s s.cur va n n false = .ok loc →
      ∃ t, exec i s = .next t ∧
        (f.d = 0 → (t.core s.cur).work = ((warned i f s).core s.cur).work) ∧
        (f.d ≠ 0 → ∃ q l, (t.core s.cur).work.pend = ((warned i f s).core s.cur).work.pend ++ [q] ∧
          q.dest = .scalar f.d.toNat ∧ q.vis = (s.core s.cur).work.bno + loadLatency i f s ∧ q.poison = false ∧
          q.load = some l ∧ (l.timed = true ↔ i = .ldt f) ∧ l.spec = false ∧
          q.final.setWidth 64 = extended (f.f.getLsbD 2) n (loadValue s loc n))) ∧
  (∀ (f : Fields) (s : State) (va n : Nat), issues (.ldx f) f s = true → poisonUse (.ldx f) f s = false →
      scalarAccess (.ldx f) f s = some (va, n, false) →
      let zero := putS (ctxOf (.ldx f) f s) (loadLatency (.ldx f) f s) f.d 0 true 0 (warned (.ldx f) f s)
      let waiting (loc : Nat) := s.heldAtBank s.cur ((read (.ldx f) f).f.getLsbD 3)
        ((s.core s.cur).work.tagA ((read (.ldx f) f).a.toNat - 32)) ((List.range n).map fun k => loc + k)
      (access s s.cur va n n false = .error .segv ∨ access s s.cur va n n false = .error .perm → exec (.ldx f) s = .next zero) ∧
      (access s s.cur va n n false = .error .misalign → exec (.ldx f) s = .next (trapped s 5 0 1)) ∧
      (∀ loc, access s s.cur va n n false = .ok loc → waiting loc = false → (∃ k < n, s.loadBad s.cur (loc + k) = true) →
        exec (.ldx f) s = .next zero) ∧
      (∀ loc, access s s.cur va n n false = .ok loc → waiting loc = true ∨ (∀ k < n, s.loadBad s.cur (loc + k) = false) → f.d ≠ 0 →
        ∃ t q l, exec (.ldx f) s = .next t ∧ (t.core s.cur).work.pend = ((warned (.ldx f) f s).core s.cur).work.pend ++ [q] ∧
          q.dest = .scalar f.d.toNat ∧ q.vis = (s.core s.cur).work.bno + loadLatency (.ldx f) f s ∧ q.poison = false ∧
          q.load = some l ∧ l.spec = true ∧ l.reread = waiting loc ∧ l.uncorrectable = false ∧
          q.final.setWidth 64 = extended (f.f.getLsbD 2) n (loadValue s loc n)))

/-- R159, R111: a store whose access passes puts the low bytes of D into the cask, the lowest at the address, and touches no byte of memory before its segment commits. -/
def Obligations.ScalarStore : Prop :=
  ∀ (f : Fields) (s : State) (va n loc : Nat), issues (.st f) f s = true → poisonUse (.st f) f s = false →
    scalarAccess (.st f) f s = some (va, n, true) → access s s.cur va n n true = .ok loc →
    ∃ t e, exec (.st f) s = .next t ∧ (t.core s.cur).seg.stores = (s.core s.cur).seg.stores ++ [e] ∧
      e.bytes = (List.range n).map (fun k => (loc + k, BitVec.ofNat 8 ((valueS s f.d).toNat / 256 ^ k))) ∧
      e.bno = (s.core s.cur).work.bno ∧ e.entries = 1 ∧
      (t.core s.cur).seg.effects = (s.core s.cur).seg.effects ∧ (∀ a, t.readByte a = s.readByte a)

/-- R126, R159: a scalar access that fails its checks traps with the cause of the first check that fails, and writes nothing. R163: a JMP or RET whose target is no multiple of 32 traps MISALIGN with TINFO the target. R177, R231: an ACTP whose index is no routine of the image traps SEGV, a KICK of a queue that is not in the core's partition PERM, each with its operand in TINFO (that a queue without a configuration counts so is log 24). R126, R144, R153, R168, R176: a BARR, WAITB or ACTB whose object's address fails its check traps at issue. R195: the first lane of a vector access that fails its check traps with the cause of that check; a per-lane form names the lane in TINFO. R211, R212: an OPA or OPAR whose rows do not lie in the own B-plane window traps SEGV, and one whose first row is no multiple of 128 MISALIGN. -/
def Obligations.OperandTraps : Prop :=
  (∀ (i : Instr) (f : Fields) (s : State) (va n : Nat) (w : Bool) (e : AccFault), (∀ g, i ≠ .ldx g) →
      slotFields i = some f → issues i f s = true → poisonUse i f s = false → scalarAccess i f s = some (va, n, w) →
      access s s.cur va n n w = .error e →
      exec i s = .next (trapped s (match e with
        | .segv => 3
        | .perm => 4
        | .misalign => 5) 0 1)) ∧
  (∀ (i : Instr) (f : Fields) (s : State), (i = .jmp f ∨ i = .ret f) → issues i f s = true →
      poisonUse i f s = false → (valueS s f.a).toNat % 32 ≠ 0 → exec i s = .next (trapped s 5 2 (valueS s f.a))) ∧
  (∀ (f : Fields) (c : CPort) (s : State),
      (issues (.actp f) f s = true → poisonUse (.actp f) f s = false →
        (s.imageOf (s.core s.cur)).routines.length ≤ (read (.actp f) f).f.toNat % 4 * 64 + f.d.toNat →
        exec (.actp f) s = .next (trapped s 3 1 (BitVec.ofNat 64 ((read (.actp f) f).f.toNat % 4 * 64 + f.d.toNat)))) ∧
      (issues (.kick c f) f s = true → poisonUse (.kick c f) f s = false → ¬ commitAllowed (.kick c f) f s →
        exec (.kick c f) s = .next (trapped s 4 1 (BitVec.ofNat 64 ((valueS s f.a).toNat % 4096))))) ∧
  (∀ (i : Instr) (f : Fields) (s : State) (e : AccFault), namesObject i = true → slotFields i = some f → issues i f s = true →
      poisonUse i f s = false → objectLoc s s.cur (valueS s (read i f).a).toNat = .error e → exec i s = .next (trapped s e.cause 0 1)) ∧
  (∀ (i : Instr) (f : Fields) (s : State) (l : Nat) (e : AccFault), isVectorAccess i = true → (∀ u g, i ≠ .vldx u g) →
      slotFields i = some f → issues i f s = true → poisonUse i f s = false → l ∈ accessLanes i f s →
      (∀ k ∈ accessLanes i f s, k < l → ∃ loc, laneCheck i f s k = .ok loc) → laneCheck i f s l = .error e →
      let named := match i with
        | .vgath _ _ | .vscat _ _ | .vamo _ _ => l
        | _ => 0
      exec i s = .next (trapped s e.cause 0 (BitVec.ofNat 64 (slotIndex i + 256 * named)))) ∧
  (∀ (i : Instr) (f : Fields) (s : State) (n : Nat), issues i f s = true → poisonUse i f s = false →
      (i = .opa f ∧ n = 1 ∨ i = .opar f ∧ (s.core s.cur).lx = true ∧ n = (s.core s.cur).lit.toNat % 2 ^ 16 ∧ 0 < n) →
      let va := (valueS s f.b).toNat
      (va < 0x80000 ∨ 0xC0000 < va + 128 * n → exec i s = .next (trapped s 3 0 4)) ∧
      (0x80000 ≤ va → va + 128 * n ≤ 0xC0000 → va % 128 ≠ 0 → exec i s = .next (trapped s 5 0 4)))

/-- R162: a CHK whose operand is poisoned diverts to the recovery bundle at its displacement; with a clean operand it does nothing. R96, R163: a taken branch (BR, BRL, JMP, RET) joins the branch queue with four bundles to issue before its target counted; BRL also writes the address four bundles on to a15 and keeps its tag. -/
def Obligations.BranchesAndChecks : Prop :=
  (∀ (f : Fields) (s : State), issues (.chk f) f s = true →
      (poisonS s f.a = false → exec (.chk f) s = .next (warned (.chk f) f s)) ∧
      (poisonS s f.a = true → exec (.chk f) s = .next ((warned (.chk f) f s).onCore s.cur fun c =>
        { c with work := { c.work with recov := some (c.work.pc + 32 * (f.d ++ f.b).signExtend 64) } }))) ∧
  (∀ (i : Instr) (f : Fields) (s : State) (target : Word), (∀ g, i ≠ .brel g) → slotFields i = some f → issues i f s = true →
      poisonUse i f s = false → branchTarget i f s = some target →
      ((∃ g, i = .jmp g ∨ i = .ret g) → target.toNat % 32 = 0) →
      ∃ t, exec i s = .next t ∧
        (t.core s.cur).work.brq = (s.core s.cur).work.brq ++ [⟨target, 4, (s.core s.cur).work.pc⟩] ∧
        ((∀ g, i ≠ .brl g) → (t.core s.cur).work.pend = ((warned i f s).core s.cur).work.pend) ∧
        ((∃ g, i = .brl g) → (t.core s.cur).work.pend =
          ((putS (ctxOf i f s) 1 47 ((s.core s.cur).work.pc + 128) false 0 (warned i f s)).core s.cur).work.pend))

/-- R100, R102, R164: LOOP runs whatever levels are active. It activates level n over the D + 1 bundles after it, or up to the end of the enclosing body that ends earlier, with a WARN bit; it writes the count to lc at the next bundle and, with stages, p9 to p15 false, and p8 true where a first pass starts; a count of 0 leaves the level inactive and issue continues after the body; the resume record of a level that it replaces is gone (R120). (That the level is inactive too where the end of an enclosing body leaves it no bundle is log 27, DEDUCED.) -/
def Obligations.LoopStarts : Prop :=
  ∀ (f : Fields) (s : State), issues (.loop f) f s = true → poisonUse (.loop f) f s = false →
    let x := read (.loop f) f
    let c := s.core s.cur
    let n := x.b.toNat
    let count := (valueS s x.a).toNat % 2 ^ 32
    let full := c.work.pc + 32 * BitVec.ofNat 64 (x.d.toNat + 1)
    let stop := loopStop c.work.loops n c.work.pc full
    let w := pushWarn (ctxOf (.loop f) f s) (if stop.toNat < full.toNat then warnMOD else 0) (warned (.loop f) f s)
    let written := putS (ctxOf (.loop f) f s) 1 (BitVec.ofNat 6 (48 + n)) (BitVec.ofNat 64 count) false 0 w
    ∃ t, exec (.loop f) s = .next t ∧ onlyCore s.cur s t ∧
      (t.core s.cur).work.loops = c.work.loops.set n ⟨c.work.pc + 32, stop, x.f.toNat, x.f.toNat - 1, decide (0 < count ∧ stop ≠ c.work.pc)⟩ ∧
      (t.core s.cur).skipTo = (if count = 0 then some (stop + 32) else c.skipTo) ∧
      (∀ r, (t.core s.cur).work.rrec = some r ↔ c.work.rrec = some r ∧ r.level ≠ n) ∧
      (x.f = 0 → (t.core s.cur).work.pend = (written.core s.cur).work.pend) ∧
      (1 ≤ x.f.toNat → ∃ stages, (t.core s.cur).work.pend = (written.core s.cur).work.pend ++ stages ∧
        (∀ k < 8, 0 < k ∨ 0 < count → ∃ q ∈ stages, q.dest = .pred (c.work.physP (8 + k)) ∧ q.vis = c.work.bno + 1 ∧
          q.mask = BitVec.allOnes 64 ∧ q.value = (predOf (decide (k = 0))).setWidth 2048) ∧
        stages.length = if 0 < count then 8 else 7)

/-- R165, R166, R177 to R179, R231: YIELD, ACTA, HALT, KICK and ACTP, on a clean operand, of a queue of the core's own partition and of a routine of the image, complete with their effect left to the commit of their segment, and a mark follows a YIELD and a HALT. The id of an ACTP is B[7:0]; where B is all ones, which R176 gives where no id is free, it names no activity and R246 has the push refused, which the model writes as the id 256 (log 87, DEDUCED). R165: BREL completes with the release of the banks in bits 31:0 of A left to the commit of its segment, and with F[0] it is a branch too. -/
def Obligations.CommitEffects : Prop :=
  (∀ (i : Instr) (f : Fields) (s : State),
      (i = .yield f ∨ i = .acta f ∨ i = .halt f ∨ (∃ c, i = .kick c f) ∨ i = .actp f) → issues i f s = true →
      poisonUse i f s = false → commitAllowed i f s → ∃ e m, commitEffect i f s = some (e, m) ∧
      exec i s = .next ((warned i f s).onCore s.cur fun c =>
        { c with seg := { c.seg with effects := c.seg.effects ++ [e] }, markAfter := m || c.markAfter })) ∧
  (∀ (f : Fields) (s : State), issues (.brel f) f s = true → poisonUse (.brel f) f s = false →
      exec (.brel f) s = .next ((warned (.brel f) f s).onCore s.cur fun c =>
        { c with
          seg := { c.seg with effects := c.seg.effects ++ [.brel ((valueS s f.a).setWidth 32)] }
          work := { c.work with
            brq := match branchTarget (.brel f) f s with
              | some t => c.work.brq ++ [⟨t, 4, c.work.pc⟩]
              | none => c.work.brq } }))

/-- R113, R153, R168, R176, R178: a value-returning word (BARR, WAITB, ACTB, ACTE, ACTS) records its operands at issue, and a mark follows its bundle. R169: AMO records its operation, address and operands for the commit of its segment; an access that fails its checks traps. R113, R205, R206: a VAMO that no VAMO of the same bundle precedes records one request per active lane for its commit, and a mark follows its bundle. -/
def Obligations.ValueRecorded : Prop :=
  (∀ (i : Instr) (f : Fields) (s : State) (loc : Nat) (op : ValueOp), slotFields i = some f → issues i f s = true →
      poisonUse i f s = false →
      (namesObject i = true → objectLoc s s.cur (valueS s (read i f).a).toNat = .ok loc) →
      valueOp i f s loc = some op →
      exec i s = .next ((warned i f s).onCore s.cur fun c =>
        { c with seg := { c.seg with effects := c.seg.effects ++ [.value ⟨0, op, 1, none, [], 0⟩] }, markAfter := true })) ∧
  (∀ (f : Fields) (s : State), issues (.amo f) f s = true → poisonUse (.amo f) f s = false →
      let x := read (.amo f) f
      let n := amoWidth x
      let va := ((s.core s.cur).work.readA (x.a.toNat % 16)).toNat
      (∀ e, atomicLoc s s.cur va n = .error e → exec (.amo f) s = .next (trapped s e.cause 0 1)) ∧
      (∀ loc, atomicLoc s s.cur va n = .ok loc → ∃ t r, exec (.amo f) s = .next t ∧
        (t.core s.cur).seg.effects = (s.core s.cur).seg.effects ++ [.value r] ∧ (t.core s.cur).markAfter = true ∧
        r.op = .amo x.d.toNat (tableAmo x) loc n (decide (x.a.toNat / 16 = 3)) (valueS s x.b) (valueS s x.d) ∧ r.slot = 1 ∧
        (x.f.getLsbD 3 = false → r.after = []) ∧ (t.core s.cur).work = ((warned (.amo f) f s).core s.cur).work)) ∧
  (∀ (u : VUnit) (f : Fields) (s : State) (locs : Nat → Nat), issues (.vamo u f) f s = true → poisonUse (.vamo u f) f s = false →
      (∀ l ∈ accessLanes (.vamo u f) f s, laneCheck (.vamo u f) f s l = .ok (locs l)) →
      let x := read (.vamo u f) f
      (lanes x s = 0 → exec (.vamo u f) s = .next (warned (.vamo u f) f s)) ∧
      (lanes x s ≠ 0 → (u = .v0 ∨ ∀ r, .value r ∉ (s.core s.cur).seg.effects) → ∃ t r op, exec (.vamo u f) s = .next t ∧
        (t.core s.cur).markAfter = true ∧ (t.core s.cur).seg.effects = (s.core s.cur).seg.effects ++ [.value r] ∧
        r.slot = slotIndex (.vamo u f) ∧
        r.op = .vamo (if x.d.toNat ≤ 47 then (s.core s.cur).work.physV x.d.toNat else x.d.toNat) op
          ((s.core s.cur).work.readA (x.a.toNat % 16)) ((accessLanes (.vamo u f) f s).map fun l =>
            (l, locs l, (element 32 (valueV s x.b) l).setWidth 64, (element 32 (valueV s x.d) l).setWidth 64)) ∧
        (x.f.toNat % 4 = 2 → op = .fadd) ∧
        (x.f.toNat % 4 ≠ 2 → (x.a.toNat / 16 = 0 → op = .add) ∧ (x.a.toNat / 16 = 3 → op = .or) ∧
          (x.a.toNat / 16 = 1 → op = if x.f.toNat % 4 = 1 then .minu else .min) ∧
          (x.a.toNat / 16 = 2 → op = if x.f.toNat % 4 = 1 then .maxu else .max))))

/-- R167: with a true guard TRAP traps SOFT with its bundle in TPC and its operand in TINFO; with a false guard it has no effect. -/
def Obligations.SoftTrap : Prop :=
  ∀ (f : Fields) (s : State),
    (issues (.trap f) f s = true → poisonUse (.trap f) f s = false → exec (.trap f) s = .next (trapped s 0x0B 6 (valueS s f.a))) ∧
    (operandsOk (.trap f) = true → calm s = true → (s.core s.cur).work.guard f.g = false →
      exec (.trap f) s = .next (warned (.trap f) f s))

/-- R170 and Table 7.5: CRD reads a control register into D: for each number from 0 to 15 the register or the fields that the table names. CWR writes one at the next bundle; a write that the level does not allow is ignored. Tables 2.8, 3.4, 4.14, 5.2 and 15.1 to 15.5: a landed write of a writable number leaves the fields that its layout gives and every other register as it was; a rotation base of 24 to 31 is stored less 24. -/
def Obligations.ControlRegisters : Prop :=
  (∀ (f : Fields) (s : State), issues (.crd f) f s = true →
    exec (.crd f) s = .next (putS (ctxOf (.crd f) f s) 1 f.d (BitVec.ofNat 64 (tableControl s (s.core s.cur) f.a.toNat)) false 0
      (warned (.crd f) f s))) ∧
  (∀ (c : Core) (q : Pending) (n upto : Nat) (v : Word), c.work.pend = [q] → q.dest = .control n → q.value = v.setWidth 2048 →
    q.load = none → q.stat = 0 → q.warn = 0 → q.vis ≤ upto → controlWritten c (c.land upto) n v ∧ (c.land upto).work.pend = []) ∧
  ∀ (f : Fields) (s : State),
    (issues (.cwr f) f s = true → poisonUse (.cwr f) f s = false →
      exec (.cwr f) s = .next (
        if f.d.toNat ∈ [0, 1, 2, 3, 4] ∨ (s.core s.cur).sup ∧ f.d.toNat ∈ [8, 9, 10, 11, 12, 13, 14] then
          pushWrite (ctxOf (.cwr f) f s) 1 (.control f.d.toNat) ((valueS s f.a).setWidth 2048) id (warned (.cwr f) f s)
        else warned (.cwr f) f s))

/-- R171 and Table 7.6: GSET writes one field of a descriptor at the next bundle and leaves the rest; a stride form that names dimension 6 or 7 changes none. -/
def Obligations.DescriptorFields : Prop :=
  ∀ (f : Fields) (s : State), issues (.gset f) f s = true → poisonUse (.gset f) f s = false →
    let x := read (.gset f) f
    let a := (valueS s x.a).toNat
    let b := (valueS s x.b).toNat
    let old := (s.core s.cur).work.readG x.d.toNat
    ∃ v : Desc, exec (.gset f) s =
        .next (pushWrite (ctxOf (.gset f) f s) 1 (.desc x.d.toNat) (v.setWidth 2048) id (warned (.gset f) f s)) ∧
      (∀ lo len, (x.f = 0 ∧ lo = 0 ∧ len = 64 ∨ x.f = 1 ∧ lo = 64 ∧ len = 64 ∨ x.f = 2 ∧ lo = 144 ∧ len = 64 ∨
          x.f = 3 ∧ lo = 128 ∧ len = 8) →
        v.toNat / 2 ^ lo % 2 ^ len = a % 2 ^ len ∧ (∀ k, k < lo ∨ lo + len ≤ k → v.getLsbD k = old.getLsbD k)) ∧
      (∀ d, d < 6 → x.f.toNat = 4 + d → x.b ≠ 0 ∨ d ≠ 0 →
        v.toNat / 2 ^ (208 + 100 * d) % 2 ^ 20 = a % 2 ^ 20 ∧ v.toNat / 2 ^ (228 + 100 * d) % 2 ^ 40 = b % 2 ^ 40 ∧
        v.toNat / 2 ^ (268 + 100 * d) % 2 ^ 40 = b % 2 ^ 40 ∧
        (∀ k, k < 208 + 100 * d ∨ 308 + 100 * d ≤ k → v.getLsbD k = old.getLsbD k)) ∧
      (x.f = 4 → x.b = 0 → v.toNat / 2 ^ 128 % 2 ^ 8 = 128 ∧ v.toNat / 2 ^ 208 % 2 ^ 100 = 2 + 2 ^ 20 * 128 + 2 ^ 60 * 128 ∧
        v.toNat / 2 ^ 308 % 2 ^ 100 = a % 2 ^ 20 + 2 ^ 20 * 256 + 2 ^ 60 * 256 ∧
        (∀ d, 2 ≤ d → d < 6 → v.toNat / 2 ^ (208 + 100 * d) % 2 ^ 100 = 1) ∧
        (∀ k, k < 128 ∨ 136 ≤ k ∧ k < 208 ∨ 808 ≤ k → v.getLsbD k = old.getLsbD k)) ∧
      (∀ lo, (x.f = 10 ∧ lo = 228 + 100 * (a % 8) ∨ x.f = 11 ∧ lo = 268 + 100 * (a % 8)) → a % 8 < 6 →
        v.toNat / 2 ^ lo % 2 ^ 40 = b % 2 ^ 40 ∧ (∀ k, k < lo ∨ lo + 40 ≤ k → v.getLsbD k = old.getLsbD k)) ∧
      (x.f = 10 ∨ x.f = 11 → 6 ≤ a % 8 → v = old) ∧
      (x.f = 12 → ∀ k, v.getLsbD k = true ↔ ∃ d < 6, k = 208 + 100 * d)

/-- R179, R262: SRET at supervisor level returns at once where nothing of the handler is uncommitted, and otherwise leaves the return to the commit of its segment, after which a mark stands. R262: a return whose save area is mapped and whole restores the context at RESUME and sets task level, once the handler's published stores are performed (log 78); a RESUME with bits 4:1 set is MISALIGN at supervisor level with the SRET's bundle in TPC; an area that cannot be resumed is a trap at supervisor level too, whose cause, SEGV, is the model's choice (log 15), and so is one that holds uncorrectable data, whose cause, UNCORRECTABLE without a rollback before it, is the model's choice (log 73). -/
def Obligations.HandlerReturns : Prop :=
  (∀ (f : Fields) (s : State), issues (.sret f) f s = true →
      let c := s.core s.cur
      let t := (warned (.sret f) f s).onCore s.cur fun c =>
        { c with seg := { c.seg with effects := c.seg.effects ++ [.sret c.work.pc c.work.space] }, markAfter := true }
      (c.pending = none ∧ c.seg.stores = [] ∧ c.seg.opas = [] ∧ c.seg.checks = [] ∧ c.seg.effects = [] →
        exec (.sret f) s = .next (returnFromTrap t s.cur c.work.pc c.work.space)) ∧
      (¬(c.pending = none ∧ c.seg.stores = [] ∧ c.seg.opas = [] ∧ c.seg.checks = [] ∧ c.seg.effects = []) →
        exec (.sret f) s = .next t)) ∧
  (∀ (s : State) (p base : Nat) (pc : Word) (space : Bool),
      let u := settleStores p s
      let t := returnFromTrap s p pc space
      saveLoc u (u.core p) = some base →
      let resume := areaNat u base 0 8
      (areaLost u base = true → (t.core p).run = .stopped ∧ (t.core p).tcause = 7) ∧
      (areaLost u base = false → resume / 2 % 16 ≠ 0 → (t.core p).run = .stopped ∧ (t.core p).tcause = 0x205 ∧
        (t.core p).tpc = pc ||| (if space then 1 else 0)) ∧
      (areaLost u base = false → resume / 2 % 16 = 0 → saveOk u base = false → (t.core p).run = .stopped ∧ (t.core p).tcause = 3) ∧
      (areaLost u base = false → resume / 2 % 16 = 0 → saveOk u base = true →
        (u.imageOf (u.core p)).holds (BitVec.ofNat 64 (resume / 32 * 32)) (resume.testBit 0) = true →
        let c := t.core p
        c.sup = false ∧ c.run = .running ∧ c.sync = none ∧ c.pending = none ∧ c.mark = c.work ∧ c.com = c.work ∧
          c.work.pc = BitVec.ofNat 64 (resume / 32 * 32) ∧ c.work.space = resume.testBit 0))

/-- R181: CMPT adds a check that fails exactly where its operands or their poison differ, in the lanes of the guard for the vector class; its outcome is known in the next cycle and it writes no register. -/
def Obligations.DuplicateCompare : Prop :=
  ∀ (f : Fields) (s : State), issues (.cmpt f) f s = true →
    let x := read (.cmpt f) f
    let c := s.core s.cur
    ∃ t k, exec (.cmpt f) s = .next t ∧ (t.core s.cur).seg.checks = c.seg.checks ++ [k] ∧ k.due = s.cyc.toNat + 1 ∧
      k.pc = c.work.pc ∧ k.space = c.work.space ∧ (t.core s.cur).work = ((warned (.cmpt f) f s).core s.cur).work ∧
      (x.f = 0 → (k.fails = false ↔ valueS s x.a = valueS s x.b ∧ poisonS s x.a = poisonS s x.b)) ∧
      (x.f = 1 → (k.fails = false ↔ poisonV s x.a = poisonV s x.b ∧
        ∀ l < 64, (lanes x s).getLsbD l = true → element 32 (valueV s x.a) l = element 32 (valueV s x.b) l)) ∧
      (x.f = 2 → (k.fails = false ↔ valueP s x.a.toNat = valueP s x.b.toNat))

/-- R152, R157, R184, R195, R211, R219: a poisoned address, index, stored value or control operand traps POISON_USE with the slot in TINFO, and the word has no other effect. R72, R78, R79, R154, R179: a reserved operand code or a format that the row does not list traps ILLEGAL_ENCODING whatever the guard; a privileged word at task level traps PRIV, and only where its encoding passes (that it does so whatever its guard is log 19, DEDUCED). (Which operands count in a word of the V slots is the model's reading, log 34, DEDUCED: a poisoned address register traps even where no lane is active, against R95, and a poisoned vector source only where some lane is.) -/
def Obligations.IssueTraps : Prop :=
  (∀ (i : Instr) (f : Fields) (s : State), slotFields i = some f → issues i f s = true → poisonUse i f s = true →
      exec i s = .next (trapped s 6 0 (BitVec.ofNat 64 (slotIndex i)))) ∧
  (∀ (i : Instr) (f : Fields) (s : State), slotFields i = some f → calm s = true →
      (operandsOk i = false → exec i s = .next (trapped s 1 0 (BitVec.ofNat 64 (slotIndex i)))) ∧
      (operandsOk i = true → privileged i = true → (s.core s.cur).sup = false →
        exec i s = .next (trapped s 0x0C 0 (BitVec.ofNat 64 (slotIndex i)))))

/-! ### Words of the V slots -/

/-- R183 to R185 and Table 8.2: a vector integer row (VADD, VSUB, VMUL, VMAD, VAND, VOR, VXOR, VSHL, VSHR, VMIN, VMAX, VABS, VPCNT) writes, in the lanes of its guard, each element of its table; a poisoned operand gives a poisoned zero. -/
def Obligations.VectorIntegerRow : Prop :=
  ∀ (i : Instr) (f : Fields) (s : State), slotFields i = some f → issues i f s = true →
    let x := read i f
    let sh := intShape x.f
    let two := match i with
      | .vabs _ _ | .vpcnt _ _ => false
      | _ => true
    let three := match i with
      | .vmad _ _ => true
      | _ => false
    (tableVec i sh.1 sh.2 0 0 0).isSome = true →
    ∃ v : Vec, exec i s = .next (putV (ctxOf i f s) 2 x.d v (lanes x s)
        (poisonV s x.a || (two && poisonV s x.b) || (three && poisonV s x.d)) 0 (warned i f s)) ∧
      ∀ e < elements sh.2, tableVec i sh.1 sh.2 (element sh.2 (valueV s x.a) e) (element sh.2 (valueV s x.b) e)
        (element sh.2 (valueV s x.d) e) = some (element sh.2 v e)

/-- R186: VCMP sets bit l of pD, in the active lanes, where every element of the lane meets the condition. R189: VFCMP sets bit l of pD, in the active lanes, where every element of the lane meets the condition; a NaN meets only .un. -/
def Obligations.VectorCompare : Prop :=
  (∀ (u : VUnit) (f : Fields) (s : State), issues (.vcmp u f) f s = true → poisonUse (.vcmp u f) f s = false →
      let x := read (.vcmp u f) f
      let sh := intShape x.f
      ∃ v : Word, exec (.vcmp u f) s =
          .next (putP (ctxOf (.vcmp u f) f s) 2 (x.d.toNat % 16) v (lanes x s) (warned (.vcmp u f) f s)) ∧
        ∀ l < 64, v.getLsbD l = true ↔ ∀ e < elements sh.2, laneAt sh.2 e = l →
          vectorCond (x.d.toNat / 16) sh.1 (element sh.2 (valueV s x.a) e) (element sh.2 (valueV s x.b) e)) ∧
  (∀ (u : VUnit) (f : Fields) (s : State), issues (.vfcmp u f) f s = true → poisonUse (.vfcmp u f) f s = false →
      let x := read (.vfcmp u f) f
      let m := floatShape x.f
      ∃ v : Word, exec (.vfcmp u f) s =
          .next (putP (ctxOf (.vfcmp u f) f s) 4 (x.d.toNat % 16) v (lanes x s) (warned (.vfcmp u f) f s)) ∧
        ∀ l < 64, v.getLsbD l = true ↔ ∀ e < elements m.width, laneAt m.width e = l →
          floatCond (x.d.toNat / 16) m (element m.width (valueV s x.a) e).toNat (element m.width (valueV s x.b) e).toNat)

/-- R187: VSEL writes every lane of D from A where its bit of the selector is 1 and from B elsewhere, and takes poison only from an operand that some lane selects. R204: PMOV moves between predicates and vectors as its form says; forms 0 and 1 are lane-gated, the others take bit 0 of the guard for the whole instruction. -/
def Obligations.SelectsAndMoves : Prop :=
  (∀ (u : VUnit) (f : Fields) (s : State), issues (.vsel u f) f s = true →
      let n := lanes f s
      ∃ v : Vec, exec (.vsel u f) s = .next (putV (ctxOf (.vsel u f) f s) 2 f.d v (BitVec.allOnes 64)
          ((decide (n ≠ 0) && poisonV s f.a) || (decide (n ≠ BitVec.allOnes 64) && poisonV s f.b)) 0 (warned (.vsel u f) f s)) ∧
        ∀ l < 64, element 32 v l = if n.getLsbD l then element 32 (valueV s f.a) l else element 32 (valueV s f.b) l) ∧
  (∀ (u : VUnit) (f : Fields) (s : State), issues (.pmov u f) f s = true → poisonUse (.pmov u f) f s = false →
      let x := read (.pmov u f) f
      let c := ctxOf (.pmov u f) f s
      let w := warned (.pmov u f) f s
      let g := lanes x s
      let on := g.getLsbD 0
      (x.f = 0 → ∃ v : Word, exec (.pmov u f) s = .next (putP c 2 x.d.toNat v g w) ∧
        ∀ l < 64, v.getLsbD l = decide (element 32 (valueV s x.a) l ≠ 0)) ∧
      (x.f = 1 → ∃ v : Vec, exec (.pmov u f) s = .next (putV c 2 x.d v g false 0 w) ∧
        ∀ l < 64, element 32 v l = if (valueP s x.a.toNat).getLsbD l then BitVec.allOnes 32 else 0) ∧
      (2 ≤ x.f.toNat → on = false → exec (.pmov u f) s = .next w) ∧
      (x.f = 2 → on = true → exec (.pmov u f) s = .next (putP c 2 x.d.toNat (predOf (poisonV s x.a)) (BitVec.allOnes 64) w)) ∧
      (x.f = 3 → on = true → ∃ v : Word, exec (.pmov u f) s = .next (putP c 2 x.d.toNat v (BitVec.allOnes 64) w) ∧
        ∀ l < 64, v.getLsbD l = ((valueP s x.a.toNat).getLsbD l && (List.range l).all fun k => !(valueP s x.a.toNat).getLsbD k)) ∧
      (x.f = 4 → on = true →
        exec (.pmov u f) s = .next (putV c 2 x.d ((valueP s x.a.toNat).setWidth 2048) (BitVec.allOnes 64) false 0 w)) ∧
      (x.f = 5 → on = true → exec (.pmov u f) s = .next (putP c 2 x.d.toNat ((valueV s x.a).setWidth 64) (BitVec.allOnes 64) w)))

/-- R203: PLOG sets bit l of pD, for each bit l of pG that is set, to the operation of its bits of A and B, and writes nothing where none is set; a write to p0 is discarded and set bits in [5:4] are read as zero. -/
def Obligations.PredicateLogic : Prop :=
  ∀ (u : VUnit) (f : Fields) (s : State), issues (.plog u f) f s = true →
    let a := valueP s (f.a.toNat % 16)
    let b := valueP s (f.b.toNat % 16)
    (f.d.toNat % 16 = 0 ∨ lanes f s = 0 → exec (.plog u f) s = .next (warned (.plog u f) f s)) ∧
    (f.d.toNat % 16 ≠ 0 → lanes f s ≠ 0 → ∃ v : Word,
      exec (.plog u f) s = .next (pushWrite (ctxOf (.plog u f) f s) 2 (.pred ((s.core s.cur).work.physP (f.d.toNat % 16)))
        (v.setWidth 2048) (fun q => { q with mask := lanes f s }) (warned (.plog u f) f s)) ∧
      ∀ l < 64, v.getLsbD l = tablePlog f.f.toNat (a.getLsbD l) (b.getLsbD l)) ∧
    ((16 ≤ f.d.toNat ∨ 16 ≤ f.a.toNat ∨ 16 ≤ f.b.toNat) ↔ warnBits (.plog u f) f (s.core s.cur).lx = 2)

/-- R188, R190, R192: a vector floating-point row (VFADD, VFSUB, VFMUL, VFMA, VFMIN, VFMAX, VFSGN, VFRCE, VFRSE) writes, in the lanes of its guard, each element of its table, and raises the STAT bits of the active elements; a poisoned operand gives a poisoned zero and no STAT bit. R192: VFRCE and VFRSE round T·2^(−9−e) and T·2^(−9−k), with T from the first 7 or 6 bits of the fraction, and Table 8.3 gives the rest. -/
def Obligations.VectorFloatRow : Prop :=
  (∀ (i : Instr) (f : Fields) (s : State), slotFields i = some f → issues i f s = true →
    let x := read i f
    let m := floatShape x.f
    let w := m.width
    let two := match i with
      | .vfrce _ _ | .vfrse _ _ => false
      | _ => true
    let three := match i with
      | .vfma _ _ => true
      | _ => false
    let row (e : Nat) := tableFloat i m (element w (valueV s x.a) e).toNat (element w (valueV s x.b) e).toNat
      (element w (valueV s x.d) e).toNat
    (tableFloat i m 0 0 0).isSome = true →
    ∃ (v : Vec) (st : BitVec 6), exec i s =
        .next (if poisonV s x.a || (two && poisonV s x.b) || (three && poisonV s x.d)
          then putV (ctxOf i f s) 4 x.d 0 (lanes x s) true 0 (warned i f s)
          else putV (ctxOf i f s) 4 x.d v (lanes x s) false st (warned i f s)) ∧
      (∀ e < elements w, (row e).map Prod.fst = some (element w v e).toNat) ∧
      (∀ k < 6, st.getLsbD k = true ↔
        ∃ e < elements w, (lanes x s).getLsbD (laneAt w e) = true ∧ ∃ r, row e = some r ∧ r.2.getLsbD k = true)) ∧
  (∀ (u : VUnit) (f : Fields) (m : FloatFmt) (a sig n : Nat) (neg : Bool) (e : Int), m.read a = .fin neg sig e → 2 ^ n ≤ sig → sig < 2 ^ (n + 1) →
    let i := 128 * sig / 2 ^ n - 128
    let j := 64 * sig / 2 ^ n - 64
    (∃ t, t = 2 ^ 17 / (257 + 2 * i) ∧ 256 ≤ t ∧ t ≤ 510 ∧
      tableFloat (.vfrce u f) m a 0 0 = some (m.round .rne (.fin neg t (-9 - (e + n))))) ∧
    (neg = true → tableFloat (.vfrse u f) m a 0 0 = some (m.canon, statIV)) ∧
    (∀ (k : Int) (o : Nat), neg = false → o < 2 → e + n = 2 * k + o → ∃ t, t ^ 2 * 2 ^ o * (129 + 2 * j) ≤ 2 ^ 25 ∧
      2 ^ 25 < (t + 1) ^ 2 * 2 ^ o * (129 + 2 * j) ∧ tableFloat (.vfrse u f) m a 0 0 = some (m.round .rne (.fin false t (-9 - k))))) ∧
  (∀ (u : VUnit) (f : Fields) (m : FloatFmt) (a : Nat) (neg : Bool),
    (∀ e, m.read a = .fin neg 0 e → tableFloat (.vfrce u f) m a 0 0 = some (m.infBits neg, statDZ) ∧
      tableFloat (.vfrse u f) m a 0 0 = some (m.infBits neg, statDZ)) ∧
    (m.read a = .inf neg → tableFloat (.vfrce u f) m a 0 0 = some (m.round .rne (.fin neg 0 0)) ∧
      tableFloat (.vfrse u f) m a 0 0 = some (if neg then (m.canon, statIV) else m.round .rne (.fin false 0 0))) ∧
    (m.read a = .nan → tableFloat (.vfrce u f) m a 0 0 = some (m.canon, 0) ∧ tableFloat (.vfrse u f) m a 0 0 = some (m.canon, 0)))

/-- R191: VFCVT towards f32 converts element 64K + l of A into lane l; the other way it converts lane l of A into element 64K + l of D and leaves the other elements. The random word of lane l in SR mode is that of R54, and the counters are used up (R55). R201, R202: VPACK shifts D down by 64 elements and puts the 64 scaled and rounded lanes of A on top, zero in inactive lanes; VUNPK converts element 64K + l into lane l with its scale. -/
def Obligations.VectorConversion : Prop :=
  (∀ (u : VUnit) (f : Fields) (s : State), issues (.vfcvt u f) f s = true →
      let x := read (.vfcvt u f) f
      let k := elemFmt x.f.toNat
      let w := k.width
      let part := x.b.toNat / 2 % 4
      let mode (l : Nat) := modeOf (effMode (.vfcvt .v0 x) x) ((s.core s.cur).srLane l)
      let wide (l : Nat) := FloatFmt.f32.round (mode l) (k.read (element w (valueV s x.a) (64 * part + l)).toNat)
      let narrow (l : Nat) := k.round (mode l) (FloatFmt.f32.read (element 32 (valueV s x.a) l).toNat)
      ∃ (v : Vec) (st : BitVec 6), exec (.vfcvt u f) s = .next (counted (.vfcvt u f) f
          (if x.b.getLsbD 0 then
            putV (ctxOf (.vfcvt u f) f s) 4 x.d v (lanes x s) (poisonV s x.a) (if poisonV s x.a then 0 else st) (warned (.vfcvt u f) f s)
          else putV (ctxOf (.vfcvt u f) f s) 4 x.d v (BitVec.allOnes 64) (poisonV s x.a || poisonV s x.d)
            (if poisonV s x.a || poisonV s x.d then 0 else st) (warned (.vfcvt u f) f s))) ∧
        (x.b.getLsbD 0 = true → ∀ l < 64, (element 32 v l).toNat = (wide l).1) ∧
        (x.b.getLsbD 0 = false → ∀ e < elements w, (element w v e).toNat =
          if 64 * part ≤ e ∧ e < 64 * part + 64 ∧ (lanes x s).getLsbD (e - 64 * part) = true then (narrow (e - 64 * part)).1
          else (element w (valueV s x.d) e).toNat) ∧
        (∀ n < 6, st.getLsbD n = true ↔ ∃ l < 64, (lanes x s).getLsbD l = true ∧
          (if x.b.getLsbD 0 then (wide l).2 else (narrow l).2).getLsbD n = true)) ∧
  (∀ (u : VUnit) (f : Fields) (s : State),
      (issues (.vpack u f) f s = true →
        let x := read (.vpack u f) f
        let k := elemFmt x.f.toNat
        let e := (s.core s.cur).work.readE (x.b.toNat % 8)
        let r (l : Nat) := if (lanes x s).getLsbD l then
            k.roundScaled (modeOf (effMode (.vpack .v0 x) x) ((s.core s.cur).srLane l)) (e.extractLsb' (8 * l) 8).toNat
              (FloatFmt.f32.read (element 32 (valueV s x.a) l).toNat)
          else (0, 0)
        ∃ (v : Vec) (st : BitVec 6), exec (.vpack u f) s = .next (counted (.vpack u f) f
            (putV (ctxOf (.vpack u f) f s) 4 x.d v (BitVec.allOnes 64) (poisonV s x.a || poisonV s x.d)
              (if poisonV s x.a || poisonV s x.d then 0 else st) (warned (.vpack u f) f s))) ∧
          (∀ n < elements k.width, (element k.width v n).toNat = if n + 64 < elements k.width
            then (element k.width (valueV s x.d) (n + 64)).toNat else (r (n + 64 - elements k.width)).1) ∧
          (∀ n < 6, st.getLsbD n = true ↔ ∃ l < 64, (r l).2.getLsbD n = true)) ∧
      (issues (.vunpk u f) f s = true →
        let x := read (.vunpk u f) f
        let k := elemFmt x.f.toNat
        let e := (s.core s.cur).work.readE (x.b.toNat % 8)
        let r (l : Nat) := (ElemFmt.float .f32).roundScaled .rne (e.extractLsb' (8 * l) 8).toNat
          (k.read (element k.width (valueV s x.a) (64 * (x.b.toNat / 8) + l)).toNat)
        ∃ (v : Vec) (st : BitVec 6), exec (.vunpk u f) s = .next
            (putV (ctxOf (.vunpk u f) f s) 4 x.d v (lanes x s) (poisonV s x.a) (if poisonV s x.a then 0 else st) (warned (.vunpk u f) f s)) ∧
          (∀ l < 64, (element 32 v l).toNat = (r l).1) ∧
          (∀ n < 6, st.getLsbD n = true ↔ ∃ l < 64, (lanes x s).getLsbD l = true ∧ (r l).2.getLsbD n = true)))

/-- R193 and Table 8.4: a permute (VSHUF, VBCAST, VSLIDE, VZIP) writes, in the lanes of its guard, the element of its source that its table names. -/
def Obligations.Permutes : Prop :=
  ∀ (i : Instr) (f : Fields) (s : State), slotFields i = some f → issues i f s = true →
    let x := read i f
    let w := fmtWidth x.f.toNat
    let n := elements w
    let two := match i with
      | .vshuf _ _ | .vzip _ _ => true
      | _ => false
    let three := match i with
      | .vslide _ _ => true
      | _ => false
    let row (k : Nat) := tablePerm i x.b.toNat n (element w (valueV s x.a)) (element w (valueV s x.b)) (element w (valueV s x.d)) k
    (row 0).isSome = true →
    ∃ v : Vec, exec i s = .next (putV (ctxOf i f s) 2 x.d v (lanes x s)
        (poisonV s x.a || (two && poisonV s x.b) || (three && poisonV s x.d)) 0 (warned i f s)) ∧
      ∀ k < n, row k = some (element w v k)

/-- R57, R194: VRED completes with the root of the tree over the elements of the active lanes in element 0, the identity where none is active, and zero in every other element. R58, R194: VSCAN completes with the prefix over elements 0 to k in each element k and the STAT bits of all of them (those of lanes whose guard bit is clear too, log 91); its last element is bit for bit what VRED of the same word gives. -/
def Obligations.TreeReduction : Prop :=
  (∀ (u : VUnit) (f : Fields) (s : State), issues (.vred u f) f s = true →
      let x := read (.vred u f) f
      let k := elemFmt x.f.toNat
      let w := k.width
      let root := treeNode (redOp k x.b.toNat) (treeLeaf w (lanes x s) (valueV s x.a)) (Nat.log2 (elements w)) 0
      let v := BitVec.ofNat 2048 ((root.map Prod.fst).getD (redIdentity k x.b.toNat))
      exec (.vred u f) s = .next (putV (ctxOf (.vred u f) f s) (if redFloat x.f then 4 else 2) x.d v (BitVec.allOnes 64)
          (poisonV s x.a) (if poisonV s x.a then 0 else (root.map Prod.snd).getD 0) (warned (.vred u f) f s)) ∧
        (element w v 0).toNat = (root.map Prod.fst).getD (redIdentity k x.b.toNat) ∧
        ∀ e < elements w, 0 < e → element w v e = 0) ∧
  (∀ (u : VUnit) (f : Fields) (s : State), issues (.vscan u f) f s = true →
      let x := read (.vscan u f) f
      let k := elemFmt x.f.toNat
      let w := k.width
      let node := treeNode (redOp k x.b.toNat) (treeLeaf w (lanes x s) (valueV s x.a))
      let root := node (Nat.log2 (elements w)) 0
      let pre (e : Nat) := prefixNode (redOp k x.b.toNat) node (e + 1) (Nat.log2 (elements w) + 1) 0 none
      ∃ (v : Vec) (st : BitVec 6), exec (.vscan u f) s = .next (putV (ctxOf (.vscan u f) f s) (if redFloat x.f then 4 else 2) x.d v
          (BitVec.allOnes 64) (poisonV s x.a) (if poisonV s x.a then 0 else st) (warned (.vscan u f) f s)) ∧
        (∀ e < elements w, (element w v e).toNat = ((pre e).map Prod.fst).getD (redIdentity k x.b.toNat)) ∧
        (∀ n < 6, st.getLsbD n = true ↔ ∃ e < elements w, ∃ r, pre e = some r ∧ r.2.getLsbD n = true) ∧
        (element w v (elements w - 1)).toNat = (root.map Prod.fst).getD (redIdentity k x.b.toNat))

/-- R111, R183, R195 to R198: a vector load whose active lanes pass their checks puts one write into flight that delivers each active lane's bytes in the lanes of the guard, and then makes its post-increment; with no active lane it makes the post-increment alone. (A step of 0 writes no address register, log 16.) The values are read at issue (log 5). R184, R196: VLDX delivers a poisoned zero at its latency in place of a SEGV or PERM trap and of uncorrectable data, and makes its post-increment all the same. -/
def Obligations.VectorLoad : Prop :=
  (∀ (i : Instr) (u : VUnit) (f : Fields) (s : State) (locs : Nat → Nat),
      (i = .vld u f ∨ i = .vldt u f ∨ i = .vgath u f ∨ i = .vldx u f) → issues i f s = true → poisonUse i f s = false →
      (∀ l ∈ accessLanes i f s, laneCheck i f s l = .ok (locs l)) →
      (i = .vldx u f → ∀ l ∈ accessLanes i f s, ∀ k < 4, s.loadBad s.cur (locs l + k) = false) →
      let x := read i f
      let w := warned i f s
      (lanes x s = 0 → exec i s = .next (stepWritten i f s w)) ∧
      (lanes x s ≠ 0 → x.d.toNat ≤ 55 → ∃ (w' t : State) (q : Pending), exec i s = .next t ∧
        (t.core s.cur).work = ((stepWritten i f s w').core s.cur).work ∧
        (w'.core s.cur).work = { (w.core s.cur).work with pend := (w.core s.cur).work.pend ++ [q] } ∧
        q.dest = vectorDest s x.d ∧ q.mask = vectorMask x.d (lanes x s) ∧ q.poison = false ∧
        q.vis = (s.core s.cur).work.bno + (if i = .vgath u f then (if (s.core s.cur).work.prof = 1 then 6 else 8) else loadLatency i f s) ∧
        (∃ d, q.load = some d ∧ (d.timed = true ↔ i = .vldt u f) ∧ (d.spec = true ↔ i = .vldx u f)) ∧
        ∀ l < 64, (lanes x s).getLsbD l = true → element 32 q.final l = laneValue i f s l (locs l)) ∧
      (lanes x s ≠ 0 → x.d = 63 → ∃ t, exec i s = .next t ∧ (t.core s.cur).work = ((stepWritten i f s w).core s.cur).work)) ∧
  (∀ (u : VUnit) (f : Fields) (s : State), issues (.vldx u f) f s = true → poisonUse (.vldx u f) f s = false →
      let i : Instr := .vldx u f
      let x := read i f
      let zero := stepWritten i f s (putV (ctxOf i f s) (loadLatency i f s) x.d 0 (BitVec.allOnes 64) true 0 (warned i f s))
      (∀ (l : Nat) (e : AccFault), l ∈ accessLanes i f s → (∀ k ∈ accessLanes i f s, k < l → ∃ loc, laneCheck i f s k = .ok loc) →
        laneCheck i f s l = .error e →
        (e ≠ .misalign → exec i s = .next zero) ∧ (e = .misalign → exec i s = .next (trapped s 5 0 (BitVec.ofNat 64 (slotIndex i))))) ∧
      (∀ locs : Nat → Nat, (∀ l ∈ accessLanes i f s, laneCheck i f s l = .ok (locs l)) →
        s.heldAtBank s.cur (x.f.getLsbD 3) ((s.core s.cur).work.tagA (x.a.toNat % 16)) ((accessLanes i f s).flatMap fun l => (List.range 4).map fun k => locs l + k) = false →
        (∃ l ∈ accessLanes i f s, ∃ k < 4, s.loadBad s.cur (locs l + k) = true) → exec i s = .next zero))

/-- R111, R196, R198, R199: a vector store whose active lanes pass their checks enters the cask with the bytes of its active lanes in ascending order, and touches no byte of memory before its segment commits; VST makes its post-increment, with no active lane too (a step of 0 writes no address register, log 16). -/
def Obligations.VectorStore : Prop :=
  ∀ (i : Instr) (u : VUnit) (f : Fields) (s : State) (locs : Nat → Nat), (i = .vst u f ∨ i = .vscat u f) → issues i f s = true →
    poisonUse i f s = false → (∀ l ∈ accessLanes i f s, laneCheck i f s l = .ok (locs l)) →
    let n := if i = .vst u f then 4 else indexedBytes (read i f)
    ∃ t, exec i s = .next t ∧ (∀ a, t.readByte a = s.readByte a) ∧
      (t.core s.cur).work = ((stepWritten i f s (warned i f s)).core s.cur).work ∧
      (accessLanes i f s = [] → (t.core s.cur).seg.stores = (s.core s.cur).seg.stores) ∧
      (accessLanes i f s ≠ [] → ∃ e, (t.core s.cur).seg.stores = (s.core s.cur).seg.stores ++ [e] ∧
        e.bytes = (accessLanes i f s).flatMap (fun l => (List.range n).map fun k =>
          (locs l + k, BitVec.ofNat 8 ((element 32 (valueV s (read i f).d) l).toNat / 256 ^ k))) ∧
        e.bno = (s.core s.cur).work.bno ∧
        e.entries = (if i = .vst u f then 1 else ((accessLanes i f s).length + 7) / 8))

/-- R200: VLDE reads 64 scales from a[A] + 64·B of the own barrel in two bundles, scale j from byte j under bit j of the guard. R217: TXQ reads 64 groups of 4 bytes at its pitch and delivers them column by column after 24 bundles; while 8 are outstanding it traps TXQ_OVERRUN with TINFO zero, and a group outside the own barrel traps first. Both deliver the bytes as they stand at issue (log 5). -/
def Obligations.OwnBarrelLoads : Prop :=
  (∀ (u : VUnit) (f : Fields) (s : State), issues (.vlde u f) f s = true → poisonUse (.vlde u f) f s = false →
      let x := read (.vlde u f) f
      let c := ownBarrel s s.cur ((s.core s.cur).work.readA (x.a.toNat % 16) + BitVec.ofNat 64 (64 * x.b.toNat)).toNat 64 64 false
      (lanes x s = 0 → exec (.vlde u f) s = .next (warned (.vlde u f) f s)) ∧
      (lanes x s ≠ 0 → ∀ e, c = .error e → exec (.vlde u f) s = .next (trapped s e.cause 0 (BitVec.ofNat 64 (slotIndex (.vlde u f))))) ∧
      (lanes x s ≠ 0 → ∀ loc, c = .ok loc → ∃ t q, exec (.vlde u f) s = .next t ∧
        (t.core s.cur).work.pend = ((warned (.vlde u f) f s).core s.cur).work.pend ++ [q] ∧ q.dest = .scale (x.d.toNat - 48) ∧
        q.mask = lanes x s ∧ q.vis = (s.core s.cur).work.bno + 2 ∧
        ∀ j < 64, (lanes x s).getLsbD j = true → q.final.extractLsb' (8 * j) 8 = s.loadByte s.cur (loc + j))) ∧
  (∀ (f : Fields) (s : State) (locs : Nat → Nat), issues (.txq f) f s = true → poisonUse (.txq f) f s = false →
      let x := read (.txq f) f
      let c := s.core s.cur
      let va (l : Nat) := (valueS s x.a + BitVec.ofNat 64 l * ((valueS s x.b).setWidth 32).signExtend 64).toNat
      let w := 32 / 2 ^ (x.f.toNat % 4)
      (∀ l e, l < 64 → (∀ k < l, ∃ n, ownBarrel s s.cur (va k) 4 4 false = .ok n) → ownBarrel s s.cur (va l) 4 4 false = .error e →
        exec (.txq f) s = .next (trapped s e.cause 0 4)) ∧
      ((∀ l < 64, ownBarrel s s.cur (va l) 4 4 false = .ok (locs l)) → 8 ≤ c.txqs → exec (.txq f) s = .next (trapped s 9 0 0)) ∧
      ((∀ l < 64, ownBarrel s s.cur (va l) 4 4 false = .ok (locs l)) → c.txqs < 8 → x.d ≠ 63 → ∃ t q, exec (.txq f) s = .next t ∧
        (t.core s.cur).work.pend = ((warned (.txq f) f s).core s.cur).work.pend ++ [q] ∧ q.dest = .vector (c.work.physV x.d.toNat) ∧
        q.mask = BitVec.allOnes 64 ∧ q.vis = c.work.bno + 24 ∧
        ∀ e < elements w, element w q.final e =
          (BitVec.ofNat 32 (loadValue s (locs (e % 64)) 4)).extractLsb' (w * (e / 64)) w) ∧
      ((∀ l < 64, ownBarrel s s.cur (va l) 4 4 false = .ok (locs l)) → c.txqs < 8 → x.d = 63 → ∃ t q, exec (.txq f) s = .next t ∧
        (t.core s.cur).work.pend = ((warned (.txq f) f s).core s.cur).work.pend ++ [q] ∧ q.dest = .nothing ∧ q.stat = 0 ∧ q.warn = 0))

/-! ### Words of the M and C slots -/

/-- R112, R211, R213, R214: OPA, ZCLR and ZLD capture their operands at issue and add one entry to the OPA queue of their segment. R103, R212: OPAR with a count of 0 leaves everything alone; otherwise repetition 0 issues with its bundle, and either the address register takes its final value at the next bundle or the loop unit holds the repetitions that remain. -/
def Obligations.PressEntryQueued : Prop :=
  (∀ (i : Instr) (f : Fields) (s : State) (o : TileOp), slotFields i = some f → issues i f s = true → poisonUse i f s = false →
      ((∃ g, i = .opa g) → rowsOk (valueS s f.b).toNat 1) → pressEntry i f s = some o →
      exec i s = .next ((warned i f s).onCore s.cur fun c => { c with seg := { c.seg with opas := c.seg.opas ++ [(c.work.bno, o)] } })) ∧
  (∀ (f : Fields) (s : State), issues (.opar f) f s = true → poisonUse (.opar f) f s = false →
      let x := read (.opar f) f
      let n := if (s.core s.cur).lx then (s.core s.cur).lit.toNat % 2 ^ 16 else 0
      let a := valueS s x.b
      let first := (warned (.opar f) f s).onCore s.cur fun c =>
        { c with seg := { c.seg with opas := c.seg.opas ++ [(c.work.bno,
            .opa (x.d.toNat % 8) x.f.toNat (x.d.getLsbD 3) (valueV s x.a) (coreLoc s.cur a.toNat) c.work.pc c.work.space)] } }
      (n = 0 → exec (.opar f) s = .next (warned (.opar f) f s)) ∧
      (n = 1 → rowsOk a.toNat 1 → exec (.opar f) s = .next (putS (ctxOf (.opar f) f s) 1 x.b (a + 128) false 0 first)) ∧
      (2 ≤ n → rowsOk a.toNat n → exec (.opar f) s = .next (first.onCore s.cur fun c =>
        { c with
          repAt := s.cyc.toNat + 1
          work := { c.work with opar := some ⟨n - 1, a + 128, x.d.toNat % 8, x.d.getLsbD 3, x.a.toNat, x.f, x.b.toNat, c.lit⟩ } })))

/-- R208, R215, R315: ZMOV reads row s of its tile, scales and rounds column j into element j of D, zero above, raises the tile's PEND with the bits of its conversions at i + 5 and leaves the tile. R116, R310, R312: a ZMOV of a lost tile consumes uncorrectable data: the core rolls back, and the second time at one bundle it is to trap UNCORRECTABLE there. -/
def Obligations.TileRowMoved : Prop :=
  ∀ (f : Fields) (s : State), issues (.zmov f) f s = true → poisonUse (.zmov f) f s = false →
    let x := read (.zmov f) f
    let c := s.core s.cur
    let tile := c.tile (x.a.toNat % 8)
    let k := elemFmt x.f.toNat
    let scale (j : Nat) := ((c.work.readE (x.a.toNat / 8)).extractLsb' (8 * j) 8).toNat
    let row := (valueS s (BitVec.ofNat 6 (x.b.toNat % 32))).toNat % 64
    let mode (j : Nat) : RMode := if x.b.getLsbD 5 then .sr (srWord c.work.seed (c.srBase + BitVec.ofNat 64 j)) else .rne
    let cell (j : Nat) := Store.get Cell.zero tile.cells (64 * row + j)
    let r (j : Nat) := k.roundScaled (mode j) (scale j) (match k with
      | .float _ => FloatFmt.fa48.read (cell j).main.toNat
      | .int _ _ => XReal.ofInt (cell j).main.toInt)
    (tile.lost ≠ [] → consumesTile (.zmov f) s) ∧
    (Store.sortedFrom 0 tile.cells = true → tile.lost = [] →
    ∃ (v : Vec) (st : BitVec 6), exec (.zmov f) s = .next (counted (.zmov f) f ((putV (ctxOf (.zmov f) f s) 5 x.d v (BitVec.allOnes 64)
        false st (warned (.zmov f) f s)).onCore s.cur (tileRead s))) ∧
      (∀ j < elements k.width, (element k.width v j).toNat = if j < 64 then (r j).1 else 0) ∧
      (∀ n < 6, st.getLsbD n = true ↔ tile.pend.getLsbD n = true ∨ ∃ j < 64, (r j).2.getLsbD n = true))

/-- R62, R63, R216: ZFLUSH captures the value of every cell, checks those whose count is at most 4,032 against the check residue by the fifth cycle, raises RNG where a count exceeds it, with the tile's PEND, and adds one queue entry. R116, R310, R312: a ZFLUSH of a lost tile consumes uncorrectable data, as a ZMOV does. -/
def Obligations.ResiduesFlushed : Prop :=
  ∀ (f : Fields) (s : State), issues (.zflush f) f s = true →
    let x := read (.zflush f) f
    let c := s.core s.cur
    let tile := c.tile x.d.toNat
    (tile.lost ≠ [] → consumesTile (.zflush f) s) ∧
    (tile.lost = [] → ∃ t vals k, exec (.zflush f) s = .next t ∧
      (t.core s.cur).seg.opas = c.seg.opas ++ [(c.work.bno, .zflush x.d.toNat
        (if x.f.getLsbD 0 then some (c.work.readE x.a.toNat) else none) vals)] ∧
      vals = tile.cells.filterMap (fun (n, q) => if q.value = 0 then none else some (n, q.value)) ∧
      k ∈ (t.core s.cur).seg.checks ∧ k.kind = .residue ∧ k.due = s.cyc.toNat + 5 ∧
      (k.fails = true ↔ ∃ n q, (n, q) ∈ tile.cells ∧ q.cnt.toNat ≤ 4032 ∧ q.value % 507 ≠ q.k.toNat) ∧
      (t.core s.cur).work = ((pushStat (ctxOf (.zflush f) f s) 5
        (tile.pend ||| (if tile.cells.any fun n => 4032 < n.2.cnt.toNat then statRNG else 0)) (warned (.zflush f) f s)).core s.cur).work)

/-- R25, R27, R30: RCALL at depth 4 traps DEPTH, of an index beyond the image SEGV, of a body that names a tile it was not given PERM. R27, R31, R219: RCALL completes whenever its holds are over. It clears its flag; a call that R31 grafts reserves a request and leaves at the commit of its segment; any other enters the body with the frame of its caller pushed, s24 to s31 and v40 to v47 zero and not poisoned, the body's flags and loops cleared, and the routine's profile; what a level of the caller that drains has left goes with the frame (R120). While its flag is bound, four grafted calls are out, their unit is busy, a load has no data, a write is pending or an OPAR runs, it waits: what is pending lands as the wait ends, and the call takes q0 to q7 as they were before its bundle. Memory byte for byte and the rest of the package stay as they are. -/
def Obligations.CallEnters : Prop :=
  (∀ (f : Fields) (s : State), issues (.rcall f) f s = true →
      let c := s.core s.cur
      let idx := f.a.toNat % 4 * 64 + f.b.toNat
      (c.work.frames.length = 4 → exec (.rcall f) s = .next (callOver s.cur (trapped s 0x11 0 4))) ∧
      (c.work.frames.length ≠ 4 → (s.imageOf c).routines[idx]? = none →
        exec (.rcall f) s = .next (callOver s.cur (trapped s 3 1 (BitVec.ofNat 64 idx)))) ∧
      (∀ r, c.work.frames.length ≠ 4 → (s.imageOf c).routines[idx]? = some r → tilesAllowed (s.imageOf c) r c.callQueue = false →
        exec (.rcall f) s = .next (callOver s.cur (trapped s 4 1 (BitVec.ofNat 64 idx))))) ∧
  (∀ (f : Fields) (s : State) (r : Routine), issues (.rcall f) f s = true →
      let c := s.core s.cur
      let x := read (.rcall f) f
      let idx := x.a.toNat % 4 * 64 + x.b.toNat
      let n := x.d.toNat
      let waits (k : Nat) (g : Core → Core) : Prop := exec (.rcall f) s = .next (s.onCore s.cur fun c => { g c with turnAt := s.cyc.toNat + k })
      let ahead := c.ahead s.cyc.toNat
      c.work.frames.length ≠ 4 → (s.imageOf c).routines[idx]? = some r → tilesAllowed (s.imageOf c) r c.callQueue = true →
      (flagBound s s.cur n = true → waits 1 id) ∧
      (∀ e, flagBound s s.cur n = false → graftTaken s s.cur idx r c.callQueue = some e →
        (4 ≤ graftsOut c ∨ unitBusy s c e.unit = true → waits 1 id) ∧
        (graftsOut c < 4 → unitBusy s c e.unit = false → ∃ t g, exec (.rcall f) s = .next t ∧ onlyCore s.cur s t ∧
          (t.core s.cur).seg.effects = c.seg.effects ++ [.graft g] ∧ g.routine = idx ∧ g.q = c.callQueue ∧
          g.flag = some (c.work.frames.length, n) ∧ g.pc = c.work.pc ∧ g.space = c.work.space ∧
          g.entry.pc = BitVec.ofNat 64 (32 * r.offset) ∧ g.entry.prof = r.prof ∧ g.entry.flags = 0 ∧
          (t.core s.cur).reserved = c.reserved + 1 ∧ (t.core s.cur).work.pc = c.work.pc ∧ (t.core s.cur).callQ = none ∧
          ∀ k < 16, (t.core s.cur).work.flags.getLsbD k = (c.work.flags.getLsbD k && decide (k ≠ n)))) ∧
      (flagBound s s.cur n = false → graftTaken s s.cur idx r c.callQueue = none →
        (c.loadsOut s.cyc.toNat = true → waits 1 id) ∧
        (c.loadsOut s.cyc.toNat = false → 0 < ahead → waits ahead fun c => { c.hasten with callQ := some c.callQueue }) ∧
        (c.loadsOut s.cyc.toNat = false → ahead = 0 → c.work.opar.isSome = true → waits 1 id) ∧
        (c.loadsOut s.cyc.toNat = false → ahead = 0 → c.work.opar = none → ∃ t g, exec (.rcall f) s = .next t ∧ onlyCore s.cur s t ∧
          (t.core s.cur).work.frames = g :: c.work.frames ∧ g.ret = c.work.pc + 32 ∧ g.retSpace = c.work.space ∧ g.flagN = n ∧
          g.routine = idx ∧ g.inserted = false ∧ g.loops = c.work.loops ∧ g.prof = c.work.prof ∧
          g.savedRrec = c.work.rrec ∧ (t.core s.cur).work.rrec = none ∧
          (∀ k < 16, g.flags.getLsbD k = (c.work.flags.getLsbD k && decide (k ≠ n))) ∧
          (t.core s.cur).work.pc = BitVec.ofNat 64 (32 * r.offset) ∧ (t.core s.cur).work.space = true ∧
          (∀ k, 24 ≤ k → k ≤ 31 → (t.core s.cur).work.readS k = 0 ∧ (t.core s.cur).work.poisonS k = false) ∧
          (∀ k, 40 ≤ k → k ≤ 47 → Store.get 0 (t.core s.cur).work.v k = 0 ∧ (t.core s.cur).work.vpoison.getLsbD k = false) ∧
          (t.core s.cur).work.flags = 0 ∧ (∀ l ∈ (t.core s.cur).work.loops, l.active = false) ∧
          (t.core s.cur).work.prof = r.prof ∧ (t.core s.cur).work.body = true ∧ (t.core s.cur).work.pend = [] ∧
          (t.core s.cur).callQ = none ∧ (t.core s.cur).mark = c.mark ∧ (t.core s.cur).com = c.com)))

/-- R218, R219: a command word (CPY, CPYT, RACK, MIGR, REDX, SEND, RECV, DRAIN, CKPT, PREF) captures its descriptor and its operand as they stand before the bundle, reserves one request, clears the flag it names and leaves at the commit of its segment. -/
def Obligations.CommandCaptured : Prop :=
  ∀ (i : Instr) (f : Fields) (s : State) (k : CmdKind), slotFields i = some f → issues i f s = true → poisonUse i f s = false →
    commandKind i = some k →
    let x := read i f
    let c := s.core s.cur
    ∃ t d, exec i s = .next t ∧ (t.core s.cur).seg.effects = c.seg.effects ++ [.command d] ∧ (t.core s.cur).reserved = c.reserved + 1 ∧
      d.kind = k ∧ (k ≠ .drain → d.desc = c.work.readG x.a.toNat) ∧ d.f = x.f ∧ d.pc = c.work.pc ∧ d.slot = slotIndex i ∧
      (k ∈ [.rack, .migr, .redx, .send, .recv, .ckpt] → d.b = valueS s x.b) ∧
      (f.d.toNat / 16 % 2 = 0 → d.flag = none ∧ (t.core s.cur).work.flags = c.work.flags) ∧
      (f.d.toNat / 16 % 2 = 1 → d.flag = some (c.work.frames.length, f.d.toNat % 16) ∧
        ∀ n < 16, (t.core s.cur).work.flags.getLsbD n = (c.work.flags.getLsbD n && decide (n ≠ f.d.toNat % 16)))

/-! ### What words leave alone, traps and landings -/

/-- R79, R93, R109, R116: whatever a slot word does, one of four things has happened: it trapped and nothing else of it stands; a tile read met lost cells and the core rolled back; a handler returned; or every register, the rest of the package and memory byte for byte are as before, and what the word gives waits for a landing or a commit. -/
def Obligations.SlotWordFrame : Prop :=
  ∀ (i : Instr) (f : Fields) (s t : State), slotFields i = some f → calm s = true → (∀ g, i ≠ .rcall g) → exec i s = .next t →
    (∃ cause sub info, t = trapped s cause sub info) ∨
    (mayLeave i = true ∧ (∃ u bno pc space, leavesFrame i s u ∧ t = consume u s.cur bno pc space 4 0)) ∨
    (mayLeave i = true ∧ ∃ u, leavesFrame i s u ∧ t = returnFromTrap u s.cur (s.core s.cur).work.pc (s.core s.cur).work.space) ∨
    leavesFrame i s t

/-- R93, R97: a pending write takes effect at its bundle and not before: a write that is due and no later one replaces gives an S code its value, and no other S code changes. R70, R72, R101: s0 reads zero and is never poisoned, p0 reads all ones, whatever the state holds, and a landing never changes either. -/
def Obligations.WriteLands : Prop :=
  (∀ (r : Regs) (q : Pending) (n upto : Nat), Store.sortedFrom 0 r.sc = true → r.pend = [q] → q.dest = .scalar n → q.load = none → q.tag = none →
      (q.vis ≤ upto → (r.land upto).pend = [] ∧ (0 < n → n ≤ 59 → (r.land upto).poisonS n = q.poison) ∧
        (0 < n → (r.land upto).readS n = if 48 ≤ n ∧ n ≤ 51 then q.value.setWidth 64 &&& 0xFFFFFFFF else q.value.setWidth 64) ∧
        (∀ k, k ≠ n → (r.land upto).readS k = r.readS k) ∧ (r.land upto).stat = r.stat ||| q.stat ∧
        (r.land upto).v = r.v ∧ (r.land upto).p = r.p ∧ (r.land upto).flags = r.flags) ∧
      (upto < q.vis → r.land upto = r)) ∧
  (∀ (r : Regs) (upto : Nat), (r.land upto).readS 0 = 0 ∧ (r.land upto).poisonS 0 = false ∧
      (r.land upto).readP 0 = BitVec.allOnes 64 ∧ (r.land upto).guard 0 = true)

/-- R259, R261: a trap taken at task level with a handler set saves the cause, the bundle and the information, enters supervisor level and starts at SVEC in .text, with the registers of the committed copy and without its pending writes, loops, frames and flags; other cores keep all they hold. R261: a trap at supervisor level, or without a handler, stops the core: TCAUSE, TPC and TINFO are set, KIND of its save area becomes 4 and nothing else is saved there, no bundle issues, and the core reports. (That a trap is taken also where no save area is mapped, and that then no byte of memory changes, is the model's reading, log 15, DEDUCED.) -/
def Obligations.TrapEntered : Prop :=
  (∀ (s : State) (p : Nat) (b : Bool) (t : TrapRec), (s.core p).sup = false → (s.core p).svec ≠ 0 →
      let c := s.core p
      let d := (takeTrap s p b t).core p
      d.tcause = BitVec.ofNat 64 (t.cause ||| (t.sub <<< 8)) ∧ d.tpc = t.pc ||| (if t.space then 1 else 0) ∧ d.tinfo = t.info ∧
      d.sup = true ∧ d.run = .running ∧ d.work.pc = c.svec ∧ d.work.space = false ∧ d.work.pend = [] ∧ d.work.frames = [] ∧
      d.work.flags = 0 ∧ (∀ l ∈ d.work.loops, l.active = false) ∧ d.work.opar = none ∧ d.work.brq = [] ∧
      d.work.sc = c.com.sc ∧ d.work.poison = c.com.poison ∧ d.work.atag = c.com.atag ∧ d.work.v = c.com.v ∧ d.work.p = c.com.p ∧
      d.work.e = c.com.e ∧ d.work.g = c.com.g ∧ d.work.stat = c.com.stat ∧ d.work.warn = c.com.warn ∧
      d.mark = d.work ∧ d.com = d.work ∧ d.pending = none ∧ d.seg.stores = [] ∧ d.seg.opas = [] ∧ d.seg.effects = [] ∧ d.seg.pc = c.svec ∧
      d.svec = c.svec ∧ d.ctx = c.ctx ∧ d.save = c.save ∧ d.sync = none ∧ d.async = [] ∧ d.grafts = [] ∧
      (∀ q, q ≠ p → (takeTrap s p b t).core q = s.core q)) ∧
  (∀ (s : State) (p : Nat) (b : Bool) (t : TrapRec), (s.core p).sup = true ∨ (s.core p).svec = 0 →
      let u := takeTrap s p b t
      (u.core p).run = .stopped ∧ (u.core p).tcause = BitVec.ofNat 64 (t.cause ||| (t.sub <<< 8)) ∧
      (u.core p).tpc = t.pc ||| (if t.space then 1 else 0) ∧ (u.core p).tinfo = t.info ∧
      (u.core p).work = (s.core p).com ∧ (u.core p).sup = (s.core p).sup ∧ .coreStopped p ∈ u.outbox ∧
      (∀ base, memInv s → saveLoc s (s.core p) = some base → areaNat u base 8 1 = 4 ∧ ∀ a, a ≠ base + 8 →
        u.readByte a = s.readByte a) ∧
      (saveLoc s (s.core p) = none → ∀ a, u.readByte a = s.readByte a))

/-- R262 to R265, R76: what a trap of a core without a published store on its way has saved a return restores, where the area holds no uncorrectable data: the bundle, the flags, the sticky bits, the alias tags, every S code, predicates, vectors, scales and descriptors of the committed copy read as before, a loop counter in its 32 bits and a descriptor without its reserved ones. -/
def Obligations.SavedContextRestored : Prop :=
  ∀ (s : State) (p : Nat) (t : TrapRec) (base : Nat) (pc : Word) (space : Bool), memInv s → (s.core p).sup = false → (s.core p).svec ≠ 0 →
    saveLoc s (s.core p) = some base → (s.core p).com.frames.length ≤ 4 → (s.core p).com.pend.length ≤ 128 →
    (s.core p).grafts.length ≤ 4 → (s.core p).com.pc.toNat % 32 = 0 →
    (s.core p).heldStores = [] → (s.core p).inserts = [] → (s.imageOf (s.core p)).holds (s.core p).com.pc (s.core p).com.space = true →
    areaLost (takeTrap s p false t) base = false →
    let r := (s.core p).com
    let d := ((returnFromTrap (takeTrap s p false t) p pc space).core p).work
    d.pc = r.pc ∧ d.space = r.space ∧ d.flags = r.flags ∧ d.stat = r.stat ∧ d.warn = r.warn ∧ d.seed = r.seed ∧ d.sridx = r.sridx ∧
    d.poison = r.poison ∧ d.vpoison = r.vpoison ∧ d.atag = r.atag ∧ d.vrb = r.vrb ∧ d.prb = r.prb ∧ d.prof = r.prof ∧
    (∀ k < 60, d.readS k = if 48 ≤ k ∧ k ≤ 51 then r.readS k &&& 0xFFFFFFFF else r.readS k) ∧ (∀ k < 16, d.readP k = r.readP k) ∧ (∀ k < 48, Store.get 0 d.v k = Store.get 0 r.v k) ∧
    (∀ k < 8, d.readE k = r.readE k) ∧ 
    (∀ k < 16, ∀ b, (d.readG k).getLsbD b = ((r.readG k).getLsbD b && decide (b < 136 ∨ 144 ≤ b ∧ b < 808)))

/-! ### The core's own steps -/

/-- R16, R68, R103, R118, R162, R212, R339: a task's first bundle issues once every plan bank is released to it, after the banks and the B-plane that another context held have been zeroed; a due recovery bundle issues before the bundle it merges into; an OPAR adds one entry a cycle and ends with its address register written; the bundles of a rendezvous issue together or not at all. -/
def Obligations.BundlesIssue : Prop :=
  (∀ (p : Nat) (s : State), memInv s → (s.core p).run = .waiting → heldBanks s p &&& (s.core p).nextBanks = 0 →
    let c := s.core p
    ∃ u, exec (.firstBundle p) s = .next (issueStep p (contextRuns p u)) ∧ (u.core p).run = .running ∧ (u.core p).bown = c.nextBanks ∧
      (∀ b < 32, c.nextBanks.getLsbD b = true → Store.find? c.bankCtx b ≠ some c.ctx.toNat → ∀ k < 0x4000,
        u.readByte (coreLoc p (0x4000 * b + k)) = 0 ∧ u.isPoisoned (coreLoc p (0x4000 * b + k)) = false) ∧
      (c.prevCtx ≠ some c.ctx.toNat → ∀ k < 0x40000, u.readByte (coreLoc p (0x80000 + k)) = 0) ∧
      (∀ b < 32, c.nextBanks.getLsbD b = false → ∀ k < 0x4000,
        u.readByte (coreLoc p (0x4000 * b + k)) = s.readByte (coreLoc p (0x4000 * b + k))) ∧
      (∀ a, a < coreLoc p 0 ∨ coreLoc p 0xC0000 ≤ a → u.readByte a = s.readByte a) ∧
      (∀ q, q ≠ p → u.core q = s.core q)) ∧
  (∀ (p : Nat) (s u : State) (b r : Bundle) (a : Word), lastRecovery s (s.core p) = false → ready p s = .go b u →
    (u.core p).work.recov = some a → fetchAt u (u.core p) a (u.core p).work.space = some r →
    let v := u.landed p
    ((u.core p).skipsBreak = true ∨ (compare v (v.core p) a (u.core p).work.space r).2 = none) →
    (u.core p).flagsReady u.cyc.toNat (headerOf r).wait = true →
    (∀ cause info, issueCheck (u.core p).sup true r = some (cause, info) →
      exec (.recoveryBundle p) s = .next (trapAtIssue p cause 0 info a (u.core p).work.space u)) ∧
    (issueCheck (u.core p).sup true r = none → tileMark (v.core p) r = false → (holdCycles v p r).1 = 0 →
      exec (.recoveryBundle p) s = .next (issueWith p r (fun c => { c with work := { c.work with comps := hitsAt u p a r, pc := a } })
        (finishRecovery p (headerOf r) (u.core p).work.pc true) u))) ∧
  (∀ (p : Nat) (s : State) (o : OparRep), (s.core p).work.opar = some o → repetitionDue s p = true →
    let c := s.core p
    let seen := { c.land c.work.bno with lx := true, lit := o.lit }
    let a := BitVec.ofNat 6 o.col
    (o.remaining = 0 → ∃ q, exec (.oparRepetition p) s = .next (s.setCore p { c with work := { c.work with
        opar := none
        pend := c.work.pend ++ [q] } }) ∧ q.dest = .scalar o.addrReg ∧ q.value = o.next.setWidth 2048 ∧ q.vis = c.work.bno ∧ q.load = none) ∧
    (0 < o.remaining → seen.vPoison a = true →
      exec (.oparRepetition p) s = .next (trapAtIssue p 6 0 4 c.work.pc c.work.space s)) ∧
    (0 < o.remaining → seen.vPoison a = false → c.seg.opas.length < 128 → ∃ t, exec (.oparRepetition p) s = .next t ∧ onlyCore p s t ∧
      t.core p = { c with
        repAt := s.cyc.toNat + 1
        seg := { c.seg with opas := c.seg.opas ++ [(c.work.bno,
          .opa o.tile o.fmt.toNat o.high (seen.srcV a) (coreLoc p o.next.toNat) c.work.pc c.work.space)] }
        work := { c.work with opar := some { o with remaining := o.remaining - 1, next := o.next + 128 } } })) ∧
  (∀ (n : Nat) (ps : List Nat) (s u : State), ps.Pairwise (· < ·) → (∀ p, p ∈ ps ↔ behind s n p) →
    (∀ bs, rendezvousReady ps s = (some bs, u) →
      exec (.rendezvous n) s = .next (bs.foldl (fun t q => issueNow q.1 q.2 t) u) ∧ bs.map Prod.fst = ps ∧
        ∀ q ∈ bs, (headerOf q.2).rz = true) ∧
    (rendezvousReady ps s = (none, u) → exec (.rendezvous n) s = .next s))

/-- R98, R108 to R110, R113, R128, R130 to R132, R147, R168, R251: a load's data arrives in every copy that awaits it once nothing before it at its bank waits, and one whose locations do not all lie in the own SRAM has no latency left to wait for; a closed segment commits once its cycles have passed and its checks have agreed: its core reads its stores at once and the others those to its own SRAM, and its tile entries join the press's queue; a KICK of a committed segment sets its queue's bit, a HALT halts the core; the value that has come back for an operation lands at the held bundle; a WAITB whose time is over returns the object with its code as the cycle ends. (When other agents see the other stores is the run's choice, log 78.) -/
def Obligations.SegmentCommits : Prop :=
  (∀ (p id : Nat) (s : State) (q : Pending) (l l' : LoadInfo), owedLoad (s.core p) id = some q → q.load = some l → l.after = [] →
    (∀ b ∈ l.bytes, s.scrubs b.1 = false) → (s.core p).loadsBefore p l.cls (l.bytes.map Prod.fst) q.bno = false →
    let r := if l.reread then rereadLoad s p q l else q
    r.load = some l' →
    (l'.uncorrectable = true → exec (.loadArrival p id) s = .next (consume s p q.bno l.pc l.space q.slot l'.badLane)) ∧
    (l'.uncorrectable = false → ∃ t, exec (.loadArrival p id) s = .next t ∧
      let n := if ∀ b ∈ l'.bytes, isOwnSram p b.1 = true then l'.readyAt else min l'.readyAt s.cyc.toNat
      (∀ a ∈ (s.core p).work.pend, a.id = id → a.bno = q.bno → a.dest = q.dest →
        { a with value := r.value, poison := r.poison, mask := r.mask, load := some { l' with arrived := true, readyAt := n } } ∈
          (t.core p).work.pend) ∧
      ((s.core p).heldStores = [] → (s.core p).opaq = [] → onlyCore p s t ∧ ∀ a ∈ (t.core p).work.pend, a ∈ (s.core p).work.pend ∨
        a.id = id ∧ a.bno = q.bno ∧ a.dest = q.dest ∧ a.value = r.value ∧ a.load = some { l' with arrived := true, readyAt := n }))) ∧
  (∀ (p : Nat) (s : State) (g : Segment), (s.core p).pending = some g → commitReady s p g = true →
    ((s.core p).sstep = false ∨ (s.core p).sup = true) → (s.core p).opaq = [] → (s.core p).heldStores = [] →
    (∀ o ∈ g.opas, ∀ e, o.2 ≠ .store e) → (∀ e ∈ g.stores, e.after = [] ∧ ∀ b ∈ e.bytes, isOwnBplane p b.1 = false) →
    let c := s.core p
    let value := lastWritten (g.stores.flatMap fun e => e.bytes)
    (g.effects = [] → ∃ t, exec (.segmentCommit p) s = .next t ∧ sameButPending (t.core p).com c.mark ∧
      sameButPending (t.core p).mark c.mark ∧ sameButPending (t.core p).work c.work ∧
      (g.stores = [] → (∀ q ∈ c.inFlight, q.atBank = false) → (t.core p).com = c.mark ∧ (t.core p).mark = c.mark ∧ (t.core p).work = c.work) ∧
      (t.core p).pending = none ∧ (t.core p).seg = c.seg ∧ (t.core p).failRec = none ∧ (t.core p).rolls = 0 ∧
      (t.core p).opaq = g.opas ∧
      (∀ e ∈ (t.core p).heldStores, ∃ d ∈ g.stores, e.bytes = d.bytes) ∧
      (memInv s → c.seg.stores = [] → (∀ e ∈ g.stores, e.bno < c.work.bno) → ∀ a, outsideRecords s a → t.loadByte p a = value (s.readByte a) a) ∧
      (memInv s → s.reqs = [] → (∀ q ∈ c.inFlight, q.atBank = false) →
        (∀ e ∈ g.stores, ∀ b ∈ e.bytes, isOwnSram p b.1 = true ∧ s.scrubs b.1 = false) → (t.core p).heldStores = [] ∧
        ∀ a, outsideRecords s a → t.readByte a = value (s.readByte a) a)) ∧
    (∀ n, n < 4096 → g.effects = [.kick n] → answers (.segmentCommit p) s fun t =>
      sameButPending (t.core p).com c.mark ∧ ∀ k < 4096, t.kicks.getLsbD k = (s.kicks.getLsbD k || decide (k = n))) ∧
    (g.effects = [.halt] → answers (.segmentCommit p) s fun t => sameButPending (t.core p).com c.mark ∧ (t.core p).run = .halted)) ∧
  (∀ (p : Nat) (s : State) (v : ValueReq) (d : Nat) (x : Word) (st : BitVec 6), (s.core p).comp = none → (s.core p).value = [v] → (s.core p).heldValue = [] →
    (s.core p).valueBack = [(v.vid, 0, x, st)] →
    ((∃ op loc w m b k, v.op = .amo d op loc w m b k) ∨ (∃ loc, v.op = .barr d loc) ∨ (∃ loc ph n, v.op = .waitb d loc ph n) ∨
      (∃ loc, v.op = .actb d loc) ∨ ∃ n, v.op = .acts d n) →
    let c := s.core p
    ∃ t q, exec (.valueReturn p) s = .next t ∧ (t.core p).value = [] ∧ (t.core p).valueBack = [] ∧
      (t.core p).work.pend = c.work.pend ++ [q] ∧ q.dest = (if d = 0 then .nothing else .scalar d) ∧ q.value = x.setWidth 2048 ∧
      q.stat = st ∧ q.poison = false ∧ q.load = none ∧ q.vis = c.work.bno ∧ (∀ k, k ≠ p → t.core k = s.core k)) ∧
  (∀ (p : Nat) (s : State) (w : TimedWait), p < 640 → s.waits = [w] → w.core = p → w.deadline ≤ s.cyc.toNat → (s.core p).awaits w.vid = true →
    (s.core p).valueBack = [] → s.scrubs w.loc = false → s.isPoisoned w.loc = false →
    let o := s.readNat w.loc 8
    let code := if objPhase o ≠ w.phase.toNat then 0 else if objPoison o then 2 else 1
    ∃ t, exec (.waitbTimeout p) s = .next t ∧ t.waits = [] ∧ t.cyc = s.cyc + 1 ∧
      (t.core p).valueBack = [(w.vid, 0, BitVec.ofNat 64 (o % 2 ^ 56 + 2 ^ 56 * code), 0)])

/-- R112, R208, R209, R211, R213, R214, R216, R310, R316, R317: the press applies its oldest entry. An OPA takes each cell through its products in order and gathers what they raise in PEND; ZCLR clears; ZLD writes one row; ZFLUSH adds the captured value and clears the residues, gives a canonical NaN and IV where its scale is 0xFF, and gathers SAT and what its roundings raise in PEND. A disagreement in the witness costs two cycles and is counted, a second one makes the witness stand in for the column. An OPA whose row holds uncorrectable data, or an entry a word of which is uncorrectable in the queue, is not applied: its core rolls back. -/
def Obligations.PressApplies : Prop :=
  ∀ (p n bno : Nat) (s : State) (o : TileOp) (l : List (Nat × TileOp)), (s.core p).opaq = (bno, o) :: l → (∀ e, o ≠ .store e) →
    o.scrubHeld s = false → (s.core p).pressAt ≤ s.cyc.toNat → ((s.core p).run = .running → (s.core p).frozen s.cyc.toNat = false) →
    let c := s.core p
    ((∀ pc space, o ≠ .lost pc space) → (∀ z, Store.sortedFrom 0 (c.tile z).cells = true) →
      (∀ tile fmt high col row pc space, o = .opa tile fmt high col row pc space → ∀ k < 128, s.isPoisoned (row + k) = false) →
    ∃ t, exec (.opaEntryApply p n) s = .next t ∧ (t.core p).applied = c.applied + 1 ∧
      (∀ z, z ∉ o.tiles → (t.core p).tile z = c.tile z) ∧
      (∀ tile fmt high col row pc space, o = .opa tile fmt high col row pc space → ∀ k < 4096,
        cellOf ((t.core p).tile tile) k = ((cellOf (c.tile tile) k).steps fmt (products fmt high col (rowValue s row) k)).1) ∧
      (∀ tile fmt high col row pc space, o = .opa tile fmt high col row pc space → ∀ b < 6,
        ((t.core p).tile tile).pend.getLsbD b = true ↔ (c.tile tile).pend.getLsbD b = true ∨
          ∃ k < 4096, ((cellOf (c.tile tile) k).steps fmt (products fmt high col (rowValue s row) k)).2.getLsbD b = true) ∧
      (∀ all tile, o = .zclr all tile → ∀ z, (all = true ∧ z < 8 ∨ all = false ∧ z = tile) →
        ((t.core p).tile z).pend = 0 ∧ ((t.core p).tile z).lost = [] ∧ ∀ k, cellOf ((t.core p).tile z) k = Cell.zero) ∧
      (∀ tile row int v, o = .zld tile row int v → ∀ k < 4096,
        cellOf ((t.core p).tile tile) k = if k / 64 = row then
            ⟨if int then (element 32 v (k % 64)).signExtend 48
              else BitVec.ofNat 48 (FloatFmt.fa48.round .rne (FloatFmt.f32.read (element 32 v (k % 64)).toNat)).1, 0, 0, 0, 0, 0, int⟩
          else cellOf (c.tile tile) k) ∧
      (∀ tile scales vals, o = .zflush tile scales vals → Store.sortedFrom 0 vals = true → ∀ k < 4096,
        let q := cellOf ((t.core p).tile tile) k
        let v := Store.get 0 vals k
        let old := cellOf (c.tile tile) k
        let at_ (e : Scales) (k : Nat) : Nat := (e.extractLsb' (8 * (k % 64)) 8).toNat
        let sum (e : Scales) (k : Nat) := FloatFmt.fa48.sum (FloatFmt.fa48.read (cellOf (c.tile tile) k).main.toNat)
          ((XReal.ofInt (Store.get 0 vals k)).scale ((at_ e k : Int) - 127))
        let raised (k : Nat) : BitVec 6 := match scales with
          | none => if -2 ^ 47 ≤ (cellOf (c.tile tile) k).main.toInt + Store.get 0 vals k ∧
              (cellOf (c.tile tile) k).main.toInt + Store.get 0 vals k < 2 ^ 47 then 0 else statSAT
          | some e => if at_ e k = 255 then statIV else (sum e k).2
        (q.w0 = 0 ∧ q.w1 = 0 ∧ q.w2 = 0 ∧ q.k = 0 ∧ q.cnt = 0) ∧
        (∀ b < 6, ((t.core p).tile tile).pend.getLsbD b = true ↔ (c.tile tile).pend.getLsbD b = true ∨ ∃ j < 4096, (raised j).getLsbD b = true) ∧
        (scales = none → q.main.toInt = max (-2 ^ 47) (min (2 ^ 47 - 1) (old.main.toInt + v))) ∧
        (∀ e, scales = some e → q.main = BitVec.ofNat 48 (if at_ e k = 255 then FloatFmt.fa48.canon else (sum e k).1))) ∧
      (n = 0 → (t.core p).pressAt = s.cyc.toNat + 1 ∧ (t.core p).standIn = c.standIn ∧ t.deferred = s.deferred) ∧
      (n = 1 → c.standIn = none → (t.core p).pressAt = s.cyc.toNat + 3 ∧ (t.core p).standIn = none ∧ t.deferred.length = s.deferred.length + 1) ∧
      (2 ≤ n → c.standIn = none → (t.core p).pressAt = s.cyc.toNat + 3 ∧ (t.core p).standIn = some (c.applied % 64) ∧
        t.deferred.length = s.deferred.length + 2)) ∧
    (∀ pc space, o = .lost pc space ∨ (∃ tile fmt high col row, o = .opa tile fmt high col row pc space ∧ ∃ k < 128, s.isPoisoned (row + k) = true) →
      (c.restarting = true → exec (.opaEntryApply p n) s = .next s) ∧
      (c.restarting = false → c.badRec ≠ some (pc, space) → answers (.opaEntryApply p n) s fun t => rolledBack p s t ∧
        (t.core p).badRec = some (pc, space) ∧ (t.core p).opaq = c.opaq ∧ (t.core p).tiles = c.tiles))

/-- R108, R116, R117, R308 to R314, R319: a check that agrees leaves its segment; one that fails is counted D cycles later and rolls the core back, and its second failure at one bundle traps MISMATCH; a strike report rolls back every core it reaches and queues the scrub of its regions and of the rows behind the packets that it poisons, touches no byte of memory, and where a core has committed or a packet has left in its cycle it is one of the next cycle; a restart after the 8 cycles issues from the committed copy, or stops a core whose copy is bad and has its context killed; a scrub takes the oldest region that waits, whole, and poisons the words of it, and of HBM4E and the CXL tier, that cannot be corrected (the order of the regions, the words that a scrub names and its length are the model's choice, log 38). -/
def Obligations.ChecksAndStrikes : Prop :=
  (∀ (p : Nat) (i : Instr) (kinds : List CheckKind) (s : State) (k : Check),
    (i = .cmptOutcome p ∧ kinds = [.cmpt, .atomicPair] ∨ i = .residueCheck p ∧ kinds = [.residue] ∨
      (∃ b, i = .witnessReadCheck p b) ∧ kinds = [.witness]) → knownCheck s p kinds = some k →
    let c := s.core p
    let bad := match i with
      | .witnessReadCheck _ b => !b
      | _ => k.fails
    (bad = false → ∃ t, exec i s = .next t ∧ onlyCore p s t ∧ checksOf (t.core p) = (checksOf c).erase k ∧ (t.core p).work = c.work ∧
      (t.core p).mark = c.mark ∧ (t.core p).com = c.com ∧ (t.core p).restarting = c.restarting) ∧
    (bad = true → c.failRec ≠ some (k.pc, k.space) → ∃ t, exec i s = .next t ∧ rolledBack p s t ∧
      (t.core p).failRec = some (k.pc, k.space) ∧
      t.deferred = s.deferred ++ [⟨s.cyc.toNat + Config.commitDelay, s.cyc.toNat, p, k.hist ++ k.kind.counter, false⟩] ∧
      ∀ q, q ≠ p → t.core q = s.core q) ∧
    (bad = true → c.failRec = some (k.pc, k.space) → ∃ t u r, exec i s = .next t ∧ r.cause = 8 ∧ r.sub = 0 ∧ r.pc = k.pc ∧ r.space = k.space ∧
      (t = trapNow u p false r ∨ (t.core p).sync = some r))) ∧
  (∀ (rs : List Region) (s : State), ∃ t, exec (.strikeReport rs []) s = .next t ∧
    (s.leftAt ≠ s.cyc.toNat + 1 → (∀ e ∈ s.cores, e.2.comAt ≠ s.cyc.toNat + 1) →
      (∀ p, (∃ r ∈ rs, p ∈ struckCores s r) → rolledBack p s t) ∧
      (∀ p, (∀ r ∈ rs, r ≠ .core p ∧ p ∉ struckCores s r) → t.core p = s.core p) ∧
      (∀ r, r ∈ t.scrubbing ↔ r ∈ s.scrubbing ∨ (∀ d, r ≠ .egress d) ∧ (r ∈ rs ∨
        ∃ e l q, (e, l) ∈ s.quarantine ∧ q ∈ l ∧ r ∈ q.regions ∧ q.poisoned = false ∧ s.cyc.toNat ≤ q.readAt + Config.commitDelay ∧
          ((∃ r' ∈ q.regions, r' ∈ rs) ∨ .egress (endpointDie e) ∈ rs))) ∧ (∀ a, t.readByte a = s.readByte a) ∧
      (∀ d, (t.lifeOf d).hist = (s.lifeOf d).hist)) ∧
    ((s.leftAt = s.cyc.toNat + 1 ∨ ∃ e ∈ s.cores, e.2.comAt = s.cyc.toNat + 1) → t.cyc = s.cyc + 1)) ∧
  (∀ (rs : List Region) (lost : List (Nat × Nat × Nat)) (s : State), answers (.strikeReport rs lost) s fun t =>
    ∀ p z k, (p, z, k) ∈ lost → k ∈ ((t.core p).tile z).lost) ∧
  (∀ (p : Nat) (s : State), (s.core p).restarting = true → (s.core p).holdUntil ≤ s.cyc.toNat →
    (exec (.rollbackRestart p true) s = .next (issueStep p (s.setCore p { s.core p with restarting := false }))) ∧
    (answers (.rollbackRestart p false) s fun t => (t.core p).run = .stopped ∧ (t.core p).tcause = 7 ∧ (t.core p).work = (s.core p).com ∧
      t.agenda = s.agenda ++ [.kill (.package, (s.core p).ctx.toNat)])) ∧
  (∀ (granules bad : List Nat) (words : List TileWord) (s : State), answers (.scrub granules (bad, words)) s fun t =>
    t.scrubbing = s.scrubbing.tail ∧
    (words = [] → s.heldArrivals = [] → (∀ c ∈ s.cores, c.2.heldStores = [] ∧ c.2.opaq = []) → (∀ a, t.readByte a = s.readByte a) ∧ (∀ p, t.core p = s.core p) ∧
      (∀ a, t.isPoisoned a = true ↔ s.isPoisoned a = true ∨
        ∃ b ∈ bad, (b < sramBase ∨ s.scrubbing.head? = some (regionOf 0 b)) ∧ granuleBase b = granuleBase a)))
/-! ### Routines and grafts -/

/-- R27 to R29, R31, R32, R35, R36, R178, R248: a body that owes nothing returns to its caller with the frame's loops, predicates, flags and profile and its flag set; a native unit that is free accepts a call; its completion delivers what the body leaves in memory, tiles and the sticky bits, zeroes s24 to s31 and v40 to v47 in every copy and sets the flag, and a step-grade one stands at each mark of its body before that (the stretch from mark to mark is one event, log 29); after a failed check of the unit the call starts its stretch again; a fault of a whole-grade graft drops it and inserts the body, a fault of a step-grade one is reported with the depth of its caller in TINFO[10:8] (log 80); an inserted body, the oldest that need not wait for a free frame, starts in a segment of its own with its parameters, or goes on where its graft stood, and a compensating run that R31 grafts is released; the end of either frees the core for what was interrupted. -/
def Obligations.RoutinesRun : Prop :=
  (∀ (p : Nat) (s : State) (f : Frame) (fs : List Frame), (s.core p).work.frames = f :: fs → f.inserted = false →
    (s.core p).run = .running → (s.core p).sync = none → (s.core p).saveKind = none → (s.core p).restarting = false →
    (s.core p).work.recov = none → atReturn s (s.core p) = true → (s.core p).turnAt ≤ s.cyc.toNat → (s.core p).holdUntil ≤ s.cyc.toNat →
    (s.core p).markAfter = false → (s.core p).resultsWait = false → (s.core p).loadsOut s.cyc.toNat = false → bodyOutstanding s p = false →
    ((s.core p).atMark && wantsStop s p) = false → (s.core p).ahead s.cyc.toNat = 0 →
    let c := s.core p
    ∃ t, exec (.routineReturn p) s = .next t ∧ onlyCore p s t ∧ (t.core p).work.pc = f.ret ∧ (t.core p).work.space = f.retSpace ∧
      (t.core p).work.frames = fs ∧ (t.core p).work.loops = f.loops ∧ (t.core p).work.rrec = f.savedRrec ∧ (t.core p).work.p = f.p ∧ (t.core p).work.prof = f.prof ∧
      (t.core p).work.pend = [] ∧ (f.flagN < 16 → ∀ k < 16, (t.core p).work.flags.getLsbD k = (f.flags.getLsbD k || decide (k = f.flagN))) ∧
      (t.core p).com = c.com ∧ (t.core p).seg = c.seg) ∧
  (∀ (p id : Nat) (s : State) (g : Graft) (e : GraftEntry), Store.sortedFrom 0 (s.core p).grafts = true →
    Store.find? (s.core p).grafts id = some g →
    (s.imageOf (s.core p)).routines[g.call.routine]?.isSome = true → graftEntry s (s.core p) g.call.routine = some e →
    ((s.core p).run = .running ∨ (s.core p).run = .ending) → g.faulted = false →
    let c := s.core p
    (g.started = false → g.resumed = false → unitFree s c id e.unit = true → exec (.graftStart p id) s = .next (s.setCore p
      { c with grafts := Store.put c.grafts id { g with started := true, step := e.stepGrade, since := s.cyc.toNat } })) ∧
    (g.started = true → ∀ u ds, nativeCall s p id g = .done u → graftGoes s p id g = true →
      ∃ t, exec (.graftCompletion p (id, ds)) s = .next t ∧ Store.find? (t.core p).grafts id = none ∧
        (settled s p → ∀ a, t.readByte a = u.readByte a) ∧
        (g.call.flag ≠ none → ∀ r : Regs, r = (t.core p).work ∨ r = (t.core p).mark ∨ r = (t.core p).com →
          (∀ k, 24 ≤ k → k ≤ 31 → r.readS k = 0 ∧ r.poisonS k = false) ∧
          ∀ k, 40 ≤ k → k ≤ 47 → Store.get 0 r.v k = 0 ∧ r.vpoison.getLsbD k = false) ∧
        (∀ n, g.call.flag = some (c.work.frames.length, n) → n < 16 → flagFree s p (c.work.frames.length, n) id →
          (∀ k ∈ u.ops, k.2.core = p → k.2.savedAt = none → k.2.cmd.flag ≠ g.call.flag) → (∀ i ∈ (u.core p).inserts, i.flag ≠ g.call.flag) →
          (∀ i, c.comp = some i → i.flag ≠ g.call.flag) → (t.core p).work.flags.getLsbD n = true) ∧
        (t.core p).com.pc = c.com.pc ∧ (t.core p).work.pc = c.work.pc ∧
        (∀ b < 6, (t.core p).work.stat.getLsbD b = (c.work.stat.getLsbD b || (u.core p).work.stat.getLsbD b)) ∧
        (∀ z, (t.core p).tile z = (u.core p).tile z)) ∧
    (∀ i, g.started = true → (g.step = false ∧ i = .graftFault p (id, true) ∨ g.step = true ∧ i = .stepGraftFault p (id, true)) →
      answers i s fun t => t.core p = { c with grafts := Store.put c.grafts id { g with since := s.cyc.toNat } } ∧
        t.deferred = s.deferred ++ [⟨s.cyc.toNat + Config.commitDelay, s.cyc.toNat, p, [2 ^ 20 + unitNumber p e.unit], false⟩] ∧
        ∀ a, t.readByte a = s.readByte a) ∧
    (g.started = true → g.step = true → ∀ u ds, nativeCall s p id g = .mark u → graftGoes s p id g = true →
      answers (.graftCompletion p (id, ds)) s fun t => (settled s p → ∀ a, t.readByte a = u.readByte a) ∧ (∃ h, Store.find? (t.core p).grafts id = some h ∧ h.body = (u.core p).work ∧
        h.since = s.cyc.toNat ∧ h.started = true ∧ h.call = g.call) ∧ sameButPending (t.core p).work c.work ∧
        (∀ z, (t.core p).tile z = (u.core p).tile z)) ∧
    (g.started = true → g.step = false → ((∃ r, nativeCall s p id g = .trap r) ∨ nativeCall s p id g = .stuck) → g.call.flag ≠ none →
      answers (.graftFault p (id, false)) s fun t => Store.find? (t.core p).grafts id = none ∧
        (t.core p).inserts = c.inserts ++ [⟨g.call.routine, g.call.q, none, g.call.flag, some g.call.entry, true⟩] ∧
        (t.core p).work.sc = c.work.sc ∧ (t.core p).work.v = c.work.v) ∧
    (∀ fl, g.started = true → g.step = true → g.call.flag = some fl → ∀ r, nativeCall s p id g = .trap r →
      answers (.stepGraftFault p (id, false)) s fun t => (r.cause ≠ 8 → onlyCore p s t) ∧ (t.core p).work = c.work ∧
        (∃ h, Store.find? (t.core p).grafts id = some h ∧ h.faulted = true ∧ h.body = g.body) ∧
        (t.core p).async = c.async ++ [⟨r.cause, 4, r.pc, true, BitVec.ofNat 64 (g.call.routine ||| (fl.1 <<< 8))⟩])) ∧
  (∀ (p : Nat) (s : State) (i : Inserted) (l : List Inserted) (m : Routine), nextInsert s p = some i → l = (s.core p).inserts.erase i →
    insertReady (s.core p) = true → (s.core p).merged = false → runHeld s i = false → (s.imageOf (s.core p)).routines[i.routine]? = some m → tilesAllowed (s.imageOf (s.core p)) m i.q = true →
    (insertGraft s p i = none → (s.core p).work.frames.length ≠ 4 → (s.core p).work.owed = false →
      ∃ t f, exec (.compensatingCall p) s = .next t ∧ onlyCore p s t ∧
        (t.core p).work.frames = f :: (s.core p).work.frames ∧ f.inserted = true ∧ f.ret = (s.core p).work.pc ∧ f.retSpace = (s.core p).work.space ∧
        (i.state = none → (t.core p).work.pc = BitVec.ofNat 64 (32 * m.offset) ∧ (t.core p).work.space = true ∧
          ∀ k < 8, (t.core p).work.readS (52 + k) = i.q.getD k 0 ∧ (t.core p).work.poisonS (52 + k) = false) ∧
        (∀ b, i.state = some b → (t.core p).work.pc = b.pc ∧ (t.core p).work.space = b.space ∧ (t.core p).work.flags = b.flags ∧
          (t.core p).work.loops = b.loops ∧ (t.core p).work.prof = b.prof) ∧
        (t.core p).com = (t.core p).work ∧ (t.core p).mark = (t.core p).work ∧ (t.core p).comp = some i ∧ (t.core p).inserts = l) ∧
    (∀ e, insertGraft s p i = some e → graftsOut (s.core p) < 4 → Store.sortedFrom 0 (s.core p).grafts = true →
      answers (.compensatingCall p) s fun t => (t.core p).comp = some i ∧ (t.core p).inserts = l ∧ (t.core p).work = (s.core p).work ∧
        ∃ g, Store.find? (t.core p).grafts s.nextOp = some g ∧ g.call.routine = i.routine ∧ g.call.q = i.q ∧ g.call.flag = none ∧
          g.started = false)) ∧
  (∀ (p : Nat) (s : State) (i : Inserted), (s.core p).comp = some i →
    (s.core p).work.frames.any (·.inserted) = false → (s.core p).com.frames.any (·.inserted) = false →
    (∀ g ∈ (s.core p).grafts, g.2.call.flag ≠ none) → (s.core p).pending = none →
    (s.core p).heldStores = [] → (s.core p).opaq = [] → answers (.compensationComplete p) s fun t =>
      (t.core p).comp = none ∧ (t.core p).value = (s.core p).heldValue ++ (s.core p).value ∧ (t.core p).work.pc = (s.core p).work.pc ∧
      (∀ n, i.seq = none → i.flag = some ((s.core p).work.frames.length, n) → n < 16 → (∀ g ∈ (s.core p).grafts, g.2.call.flag ≠ i.flag) →
        flagFree s p ((s.core p).work.frames.length, n) 0 →
        (t.core p).work.flags.getLsbD n = true ∧ (t.core p).reserved = (s.core p).reserved - 1))
/-! ### Engines and homes -/

/-- R219, R221 to R223, R225 to R230, R232, R233: an operation whose conditions hold and that has nothing to hand to a link ends with its effect, arrives on its object and sets its flag; one that meets a fault ends too, and the fault is on its object or in a report of the issuing core; the oldest SEND and RECV of a channel start together, or end together when their totals differ; a SEND to another chip that finds no RECV there yet waits, starts or is refused as that chip answers (log 18), and waits while the link is out of service; a CKPT starts when no activity in progress has a footprint that overlaps its tag. What a completion writes: CPY, CPYT and CKPT give each destination element the bytes of its source element, RACK the converted ones of a valid element and zeros to the others, REDX the ranks' elements combined in the order of the ranks, a RECV the bytes of its SEND in the order of both, or those that its channel has brought from another chip, and no other byte; SEND, MIGR, DRAIN and PREF write none of their own. (Bytes that several elements write, or that one writes and its copy reads, are log 6's.) -/
def Obligations.EngineOperations : Prop :=
  (∀ (k : Nat) (s t0 : State) (o : EngineOp), memInv s → Store.sortedFrom 0 s.ops = true → Store.find? s.ops k = some o → o.stage = .running →
    opBlocked s o = false → handsOver s o = false →
    completedState s k o = some t0 → settled s o.core → settled s o.origin.1 → o.savedAt = none → o.limit = none →
    ∃ t, exec (.engineCompletion k) s = .next t ∧ opGone k o s t ∧
      (o.object = none → ∀ a, outsideRecords s a → t.readByte a = t0.readByte a) ∧
      (∀ loc, o.object = some loc → t0.isPoisoned loc = false → t0.scrubs loc = false →
        ((∀ n < 8, outsideRecords s (loc + n)) → t.readNat loc 8 = arriveVal (t0.readNat loc 8) % 2 ^ 64) ∧
        ∀ a, a < loc ∨ loc + 8 ≤ a → outsideRecords s a → t.readByte a = t0.readByte a)) ∧
  (∀ (k row : Nat) (code : BitVec 7) (s : State) (o : EngineOp), memInv s → Store.sortedFrom 0 s.ops = true → Store.find? s.ops k = some o →
    o.stage = .running → opBlocked s o = false → opError s k o = some (code.toNat, row) → settled s o.core → settled s o.origin.1 → o.savedAt = none →
    ∃ t, exec (.engineFault k code) s = .next t ∧ opGone k o s t ∧
      (∀ loc, o.mate = none → o.object = some loc → s.isPoisoned loc = false → s.scrubs loc = false → (∀ n < 8, outsideRecords s (loc + n)) →
        objPoison (t.readNat loc 8) = true) ∧
      (∀ cause, o.object = none → (code ∈ [2, 5] ∧ cause = 3 ∨ code = 3 ∧ cause = 4 ∨ code ∈ [4, 7, 8] ∧ cause = 7) →
        ∃ r ∈ (t.core o.core).async, r.cause = cause ∧ r.sub = 3 ∧ r.pc = o.cmd.pc ∧ r.space = o.cmd.space ∧
          r.info = BitVec.ofNat 64 (code.toNat + 128 * o.cmd.slot))) ∧
  (∀ (ch k m : Nat) (ks ms : List Nat) (a b x : Nat) (bs : List Byte) (s : State) (o q : EngineOp), Store.sortedFrom 0 s.ops = true → k ≠ m →
    Store.find? s.channels ch = some ⟨a, b, k :: ks, m :: ms, x, bs⟩ → Store.find? s.ops k = some o → Store.find? s.ops m = some q →
    (o.bytes = q.bytes → answers (.sendMatch ch) s fun t =>
      Store.find? t.ops k = some { o with stage := .running, mate := some m } ∧
      Store.find? t.ops m = some { q with stage := .running, mate := some k } ∧ Store.find? t.channels ch = some ⟨a, b, ks, ms, x, bs⟩ ∧
      (∀ y, t.readByte y = s.readByte y)) ∧
    (o.bytes ≠ q.bytes → answers (.sendMatch ch) s fun t =>
      Store.find? t.ops k = none ∧ Store.find? t.ops m = none ∧ Store.find? t.channels ch = some ⟨a, b, ks, ms, x, bs⟩)) ∧
  (∀ (ch k : Nat) (ks : List Nat) (a b x : Nat) (bs : List Byte) (s : State) (o : EngineOp), Store.sortedFrom 0 s.ops = true → Store.find? s.ops k = some o →
    Store.find? s.channels ch = some ⟨a, b, k :: ks, [], x, bs⟩ →
    (remote b = false ∨ s.cyc.toNat < x ∨ (s.link (channelLink ch)).up = false → exec (.sendMatch ch) s = .next s) ∧
    (remote b = true → x ≤ s.cyc.toNat → (s.link (channelLink ch)).up = true → answers (.sendMatch ch) s fun t =>
      Store.find? t.ops k = some { o with stage := .running, mate := none } ∧ Store.find? t.channels ch = some ⟨a, b, ks, [], x, bs⟩ ∨
      Store.find? t.ops k = none ∧ Store.find? t.channels ch = some ⟨a, b, ks, [], x, bs⟩ ∨
      Store.find? t.ops k = some o ∧ Store.find? t.channels ch = some ⟨a, b, k :: ks, [], s.cyc.toNat + 1, bs⟩)) ∧
  (∀ (k : Nat) (s : State) (o : EngineOp), Store.find? s.ops k = some o → o.cmd.kind = .ckpt → o.stage = .waiting →
    ((∀ e ∈ s.acts, (e.2.state = .open ∨ e.2.state = .ending ∨ e.2.state = .abandoning) → footprint s e.1 &&& o.cmd.b.setWidth 32 = 0) →
      answers (.ckptGateOpen k) s fun t => Store.find? t.ops k = some { o with stage := .running, mate := none }) ∧
    ((∃ e ∈ s.acts, (e.2.state = .open ∨ e.2.state = .ending ∨ e.2.state = .abandoning) ∧ footprint s e.1 &&& o.cmd.b.setWidth 32 ≠ 0) →
      exec (.ckptGateOpen k) s = .next s)) ∧
  (∀ (k : Nat) (s t0 : State) (o : EngineOp), memInv s → o.limit = none → completedState s k o = some t0 →
    (o.cmd.kind ∈ [.cpy, .cpyt, .rack, .ckpt] → formOk s o.core o.cmd = true →
      (∀ j, j < (destVAs o.cmd.desc).length → apart s o j → (destOf s o j).map t0.readByte =
        if o.cmd.valid j then tableCopy o.cmd ((sourceOf s o j).map s.readByte) else List.replicate (descEsize o.cmd.desc) 0) ∧
      (∀ j, o.cmd.valid j = true ↔ o.cmd.kind ≠ .rack ∨ j % descCount o.cmd.desc 0 < o.cmd.b.toNat % 2 ^ 20 ∧
        j / descCount o.cmd.desc 0 % descCount o.cmd.desc 1 < o.cmd.b.toNat / 2 ^ 20 % 2 ^ 20) ∧
      (∀ a, outsideRecords s a → a ∉ allDest s o → t0.readByte a = s.readByte a)) ∧
    (o.cmd.kind ∈ [.send, .migr, .drain, .pref] → ∀ a, t0.readByte a = s.readByte a) ∧
    (o.cmd.kind = .recv → ∀ j, j < (allDest s o).length → (allDest s o).Nodup → (∀ a ∈ allDest s o, outsideRecords s a) →
      (∀ m q, remote (channelOf s o).sender = false → o.mate = some m → Store.find? s.ops m = some q → q.cmd.kind = .send →
        o.bytes = q.bytes → t0.readByte ((allDest s o).getD j 0) = s.readByte ((allSource s q).getD j 0)) ∧
      (remote (channelOf s o).sender = true → o.bytes = (allDest s o).length →
        t0.readByte ((allDest s o).getD j 0) = (channelOf s o).inbox.getD j 0)) ∧
    (∀ (g : RedGroup) (es : List (Nat × Nat)) (xs : List (List Nat)), o.cmd.kind = .redx → Store.find? s.ops k = some o → o.result = none →
      Store.find? s.redGroups (o.cmd.b.toNat % 65536) = some g → g.failed = false → redxEntries g = some es → (∃ p, (p, k) ∈ es) →
      redxAgrees s g es = true → g.ranks.length = xs.length →
      (∀ i p, g.ranks[i]? = some p → remote p = false ∧ ∃ j q, es.find? (fun e => e.1 = p) = some (p, j) ∧ Store.find? s.ops j = some q ∧
        q.stage = .running ∧ q.limit = none ∧ opBlocked s q = false ∧ sourceElems s q = .ok (xs.getD i [])) →
      ∀ j, j < (destVAs o.cmd.desc).length → apart s o j →
        (destOf s o j).map t0.readByte = toBytes (redxWidth o.cmd.f) (tableRedx o.cmd.f (xs.map fun l => l.getD j 0))))

/-- R140 to R143: a request that may be applied changes its location as Table 7.4 says and nothing else of memory, returns the old value and is recorded in its home's window for the source; a tag of the window changes nothing and returns the recorded value; a router makes one request of those it may merge, with all their constituents; a replay is sent again with the same tags. On an uncorrectable word nothing is applied, the window stays as it was and the core that asked rolls back: the model's choice, log 73. -/
def Obligations.AtomicsAtHome : Prop :=
  (∀ (n : Nat) (s : State) (r : AtomReq) (q : AtomPart), memInv s → Store.find? s.reqs n = some r → r.parts = [q] → isPeer q.core = false → atomReady s n r = true →
    r.width ∈ [2, 4, 8] → (r.op = .arrive → r.width = 8) → (r.bf16 = true ↔ r.width = 2) →
    let good := ∀ k < r.width, s.isPoisoned (r.loc + k) = false
    (good → settled s q.core → windowFind s r.loc q = none → staleTag s r.loc q = false →
      let old := s.readNat r.loc r.width
      ∃ t st, exec (.atomicAtHome n) s = .next t ∧
        ((∀ k < r.width, outsideRecords s (r.loc + k)) →
          t.readNat r.loc r.width = tableAtomic r.op (8 * r.width) r.bf16 old q.operand.toNat r.cmp.toNat) ∧
        (∀ a, a < r.loc ∨ r.loc + r.width ≤ a → outsideRecords s a → t.readByte a = s.readByte a) ∧
        (s.homeOf r.loc, s.source q.src, q.seq, BitVec.ofNat 64 old, st) ∈ t.window ∧ (r.op ≠ .fadd → st = 0) ∧
        ((s.core q.core).awaits q.vid = true → (∀ b ∈ (s.core q.core).valueBack, b.1 ≠ q.vid) →
          (t.core q.core).valueBack = (s.core q.core).valueBack ++ [(q.vid, q.lane, BitVec.ofNat 64 old, st)])) ∧
    (∀ v st, good → settled s q.core → windowFind s r.loc q = some (v, st) → ∃ t, exec (.atomicAtHome n) s = .next t ∧
      (∀ a, outsideRecords s a → t.readByte a = s.readByte a) ∧
      t.window = s.window ∧ ((s.core q.core).awaits q.vid = true → (∀ b ∈ (s.core q.core).valueBack, b.1 ≠ q.vid) →
        (t.core q.core).valueBack = (s.core q.core).valueBack ++ [(q.vid, q.lane, v, st)])) ∧
    (¬ good → (s.core q.core).restarting = false → (s.core q.core).badRec ≠ some ((s.core q.core).com.lastPc, (s.core q.core).com.lastSpace) →
      answers (.atomicAtHome n) s fun t => rolledBack q.core s t ∧ (∀ a, t.readByte a = s.readByte a) ∧ t.window = s.window)) ∧
  (∀ (ns : List Nat) (s : State) (r : AtomReq) (rs : List AtomReq), ns.filterMap (Store.find? s.reqs) = r :: rs →
    mergeOk s ns (r :: rs) = true → (∀ e ∈ s.reqs, e.1 < s.nextReq) → Store.sortedFrom 0 s.reqs = true →
    ∃ t q, exec (.routerMerge ns) s = .next t ∧
      Store.find? t.reqs s.nextReq = some q ∧ q.op = r.op ∧ q.loc = r.loc ∧ q.width = r.width ∧ q.applied = r.applied ∧
      q.parts.Perm ((r :: rs).flatMap AtomReq.parts) ∧ (∀ n ∈ ns, ∀ e ∈ t.reqs, e.1 ≠ n) ∧ (∀ a, t.readByte a = s.readByte a)) ∧
  (∀ (n : Nat) (s : State) (r : AtomReq), Store.find? s.reqs n = some r →
    exec (.atomicRequestReplay n) s =
      .next { s with reqs := Store.put s.reqs s.nextReq { r with applied := false }, nextReq := s.nextReq + 1 })

/-! ### Contexts and tasks -/

/-- R119, R165, R178, R259, R263 to R268, R282, R284: a held trap and a report are taken once the older segments have committed; a soft request, which a softPreemption makes without a decision of the arbiter (log 52), takes effect at a mark, and for a core that overruns becomes one of KIND 1 before that, a hard one at once from the committed copy, and a soft one that waits too long becomes hard; a hard request comes before a trap, a breakpoint or a trap of the bundle before a report; a save writes the committed state and frees the core, and releases of banks that engine writes still hold wait on; a resumption brings a saved context's registers back, a parked one 64 cycles after the save, and a core whose area holds uncorrectable data stops (the model's choice, log 73); a kill, once its scheduler takes it (that of killDie, log 82), stops the context's cores and ends its operations and requests, no store of it is performed any more, and its completion frees the cores, reports, and puts its task among those that have ended. -/
def Obligations.ContextsMove : Prop :=
  (∀ (p : Nat) (s : State) (r : TrapRec), (s.core p).sync = some r → (s.core p).comp = none →
    ((s.core p).readyToSave = true → (∀ k, (s.core p).preempt ≠ .hard k) → (s.core p).saveKind = none → (s.core p).restarting = false →
      ((s.core p).breakNow = none → exec (.trapEntry p) s = .next (takeTrap s p false r)) ∧
      (∀ cs, (s.core p).breakNow = some cs → exec (.trapEntry p) s =
        .next (takeTrap (s.setCore p { s.core p with com := { (s.core p).com with comps := cs } }) p true r))) ∧
    ((s.core p).readyToSave = false ∨ (∃ k, (s.core p).preempt = .hard k) → exec (.trapEntry p) s = .next s)) ∧
  (∀ (p : Nat) (s : State) (r : TrapRec) (l : List TrapRec), (s.core p).async = r :: l → (s.core p).active = true → (s.core p).sup = false →
    (s.core p).sync = none → (s.core p).saveKind = none → (s.core p).restarting = false →
    ((s.core p).atMark = true → (s.core p).readyToSave = true → (∀ k, (s.core p).preempt ≠ .hard k) → stopsFirst s p = false →
      (r.sub ≠ 5 → exec (.asyncReport p) s = .next (takeTrap (s.setCore p { s.core p with async := l }) p false r)) ∧
      (r.sub = 5 → exec (.asyncReport p) s = .next (takeTrap (s.setCore p { s.core p with async := l }) p false
        { r with pc := (s.core p).com.pc, space := (s.core p).com.space }))) ∧
    ((s.core p).atMark = false ∨ stopsFirst s p = true → exec (.asyncReport p) s = .next s)) ∧
  (∀ (p : Nat) (s : State), (s.core p).active = true → (s.core p).saveKind = none →
    let c := s.core p
    (c.overruns = false → c.preempt = .none → (inTakeover s c.queue = false →
        exec (.softPreemption p) s = .next (s.setCore p { c with preempt := .soft 1 s.cyc.toNat })) ∧
      (inTakeover s c.queue = true → exec (.softPreemption p) s = .next s)) ∧
    (∀ since, c.overruns = true → c.preempt = .none ∧ since = s.cyc.toNat ∨ c.preempt = .soft 3 since →
      answers (.softPreemption p) s fun t => (t.core p).overran = some c.issued ∧
        ((t.core p).preempt = .soft 1 since ∨ (t.core p).saveKind = some 1)) ∧
    (∀ kind since, c.overruns = false → c.preempt = .soft kind since → c.sup = false → c.sync = none → c.async = [] → c.restarting = false → c.softDue = true →
      c.pending = none → (c.atMark = true → stopsFirst s p = false → (kind = 3 → inTakeover s c.queue = false) →
          exec (.softPreemption p) s = .next (s.setCore p { c with saveKind := some kind, preempt := .none })) ∧
        (c.atMark = false ∨ stopsFirst s p = true ∨ kind = 3 ∧ inTakeover s c.queue = true → exec (.softPreemption p) s = .next s)) ∧
    (∀ kind, c.preempt = .hard kind → c.sup = false → answers (.hardPreemption p) s fun t => onlyCore p s t ∧ (t.core p).work = c.com ∧
      (t.core p).mark = c.com ∧ (t.core p).com = c.com ∧ (t.core p).pending = none ∧ (t.core p).saveKind = some kind ∧
      (t.core p).seg = Segment.opened c.com.pc c.com.space) ∧
    (∀ kind since, c.preempt = .soft kind since → ∀ h, (groupOf s p = none ∧ h = 262144 ∨ ∃ n g, groupOf s p = some (n, g) ∧ h = g.hpe) →
      (since + h ≤ s.cyc.toNat → exec (.hpeExpiry p) s = .next (s.setCore p { c with preempt := .hard 2 })) ∧
      (s.cyc.toNat < since + h → exec (.hpeExpiry p) s = .next s))) ∧
  (∀ (p kind base : Nat) (s : State), memInv s → (s.core p).saveKind = some kind → kind ≤ 3 → (s.core p).saveReady = true →
    (kind = 3 → inTakeover s (s.core p).queue = false) → saveLoc s (s.core p) = some base → (s.core p).com.frames.length ≤ 4 → (s.core p).com.pend.length ≤ 128 → (s.core p).grafts.length ≤ 4 →
    (s.core p).inserts = [] → ∃ t e r, exec (.contextSave p) s = .next t ∧ (t.core p).run = .saved ∧ (t.core p).bown = 0 ∧
      (t.core p).lateBrels = (s.core p).lateBrels ++ (s.core p).brels ∧ r.issued = (s.core p).issued ∧
      (t.core p).saveKind = none ∧ areaNat t base 0 8 = (s.core p).com.pc.toNat ||| (if (s.core p).com.space then 1 else 0) ∧
      areaNat t base 8 1 = kind ∧ Store.find? t.extras base = some e ∧ e.left = some r ∧ r.core = p ∧ r.ctx = (s.core p).ctx ∧
      r.bown = (s.core p).bown &&& ~~~(s.core p).releasing ∧ r.image = (s.core p).image ∧ r.queue = (s.core p).queue ∧
      r.svec = (s.core p).svec) ∧
  (∀ (p b : Nat) (s : State) (r : CtxRegs) (l : List (Nat × CtxRegs)), resumable s p = (b, r) :: l → (s.core p).free = true →
    ((s.core p).outgoing = none → b + 0x100000 ≤ sramBase → areaLost s b = true → answers (.resumption p) s fun t =>
      (t.core p).run = .stopped ∧ (t.core p).tcause = 7) ∧
    ((∀ g ∈ s.poisoned, g + granule g ≤ b ∨ b + 0x100000 ≤ g) →
    ((s.core p).outgoing = none → answers (.resumption p) s fun t => (r.waits = none → (t.core p).run = .running) ∧
      (∀ banks, r.waits = some banks → (t.core p).run = .waiting ∧ (t.core p).nextBanks = banks) ∧ (t.core p).sup = false ∧
      (t.core p).ctx = r.ctx ∧ (t.core p).bown = r.bown ||| (s.core p).bown ∧ (t.core p).image = r.image ∧ (t.core p).queue = r.queue ∧
      (t.core p).svec = r.svec ∧ (t.core p).save = r.save ∧ (t.core p).issued = r.issued ∧ (t.core p).prevCtx = some r.ctx.toNat) ∧
    (∀ x y, (s.core p).parked = some (x, b) → (s.core p).outgoing = some y →
      ((s.core p).parkAt ≤ s.cyc.toNat → ∃ u, exec (.parkedSwitch p) s = .next (issueStep p u) ∧
        (r.waits = none → (u.core p).run = .running) ∧ (u.core p).ctx = r.ctx ∧ (u.core p).bown = r.bown ||| (s.core p).bown ∧ (u.core p).image = r.image ∧ (u.core p).parked = some y ∧
        (u.core p).outgoing = none) ∧
      (s.cyc.toNat < (s.core p).parkAt → exec (.parkedSwitch p) s = .next s)))) ∧
  (∀ (v : Via) (ctx : Nat) (s : State), ctx ∉ s.dead → mailboxTakes v s = true → inCharge s (killDie s ctx) → answers (.kill (v, ctx)) s fun t =>
    ctx ∈ t.dead ∧ (∀ p, occupies s ctx p → (t.core p).run = .stopped ∧ (t.core p).bown = 0 ∧ (t.core p).pending = none ∧
      sameButPending (t.core p).work (s.core p).com ∧ ∀ o ∈ (t.core p).opaq, o.2.isStore = true) ∧
    (∀ p, (∀ o ∈ (t.core p).opaq, o.2.storeOf ctx = false) ∧ ∀ e ∈ (t.core p).heldStores, e.ctx ≠ ctx) ∧
    .acknowledged (killDie s ctx) (.kill (v, ctx)) ∈ t.outbox ∧ (∀ e ∈ t.reqs, ∀ q ∈ e.2.parts, ¬ occupies s ctx q.core) ∧
    (∀ e ∈ t.ops, e.2.ctx ≠ ctx) ∧ (∀ e ∈ s.ops, e.2.ctx ≠ ctx → (∀ d ∈ s.ops, d.1 = e.1 → d.2.ctx ≠ ctx) → e ∈ t.ops) ∧
    (∀ e ∈ t.faults, e.2.ctx ≠ ctx)) ∧
  (∀ (ctx : Nat) (s : State), ctx ∈ s.dead → (∀ e ∈ s.ops, e.2.ctx ≠ ctx) → (∀ m ∈ s.moves, m.ctx ≠ ctx) →
    (∀ h ∈ s.heldArrivals, h.ctx ≠ some ctx) → orphanFlits s = false →
    answers (.killComplete ctx) s fun t => ctx ∉ t.dead ∧ .killDone ctx ∈ t.outbox ∧
    (∀ e ∈ s.tasks, e.2.ctx = ctx → ∃ x ∈ (t.sched (queueDie s e.1)).ends, x.1 = e.1) ∧ ∀ p, occupies s ctx p → (t.core p).run = .idle ∧ (t.core p).ctx = 0)

/-- R17, R180, R272, R274, R278 to R287, R310, R326: a core that reaches its end closes its segment and, when it owes nothing, gives up its banks and reports; a doorbell rings only for a function that is presented and its own partition, and is counted in that function's ring otherwise (log 51); a scan reads TAIL and disables a queue out of order, or one whose TAIL is uncorrectable (log 73); a launch gives each core of the group its index, count and entry, and the SVEC that system software has set for the context (log 46); the tasks of a die complete in the order in which they ended, and the completion advances HEAD; an idle group takes the runnable queue of least PASS that fits its slice; at a leading yield of v the running queue is charged for its cycles, the slice loses them, its next run is v, and the same choice keeps it or asks its whole placement for a save of KIND 3; an overrun is noted and asks the placement to save, also where a yield switch has asked before (that the switch's choice is then made again is log 45, DEDUCED); a standby takes over and then looks at every queue again. -/
def Obligations.TasksRun : Prop :=
  (∀ (p : Nat) (s : State), (s.core p).run = .running → (s.core p).sync = none → (s.core p).saveKind = none → (s.core p).restarting = false →
    (s.core p).work.recov = none → atEnd s (s.core p) = true → (s.core p).turnAt ≤ s.cyc.toNat → (s.core p).holdUntil ≤ s.cyc.toNat →
    (s.core p).dataHeld s.cyc.toNat = false → (s.core p).markBlocked s.cyc.toNat = false → (s.core p).comp = none → (s.core p).work.opar = none →
    answers (.taskEnd p) s fun t => onlyCore p s t ∧ (t.core p).run = .ending ∧ (t.core p).work = (s.core p).work ∧
      ((s.core p).atMark = false → (t.core p).mark = (s.core p).work ∧
        (t.core p).pending = some { (s.core p).seg with closedAt := s.cyc.toNat }) ∧
      ((s.core p).atMark = true → (t.core p).pending = none)) ∧
  (∀ (p : Nat) (s : State) (k : Task), (s.core p).run = .ending → endReady s p = true → Store.find? s.tasks (s.core p).queue = some k →
    p ∈ k.cores → answers (.taskEnd p) s fun t => (t.core p).run = .ended ∧ (t.core p).bown = 0 ∧
      Store.find? t.tasks (s.core p).queue = some { k with ended := k.ended ++ [p] } ∧
      ((∀ q ∈ k.cores, q ∈ k.ended ∨ q = p) → (∀ e ∈ (s.sched (queueDie s (s.core p).queue)).ends, e.1 ≠ (s.core p).queue) →
        (t.sched (queueDie s (s.core p).queue)).ends = (s.sched (queueDie s (s.core p).queue)).ends ++ [((s.core p).queue, 0)]) ∧
      ((∃ q ∈ k.cores, q ∉ k.ended ∧ q ≠ p) → ∀ d, (t.sched d).ends = (s.sched d).ends)) ∧
  (∀ (fn q : Nat) (s : State), s.presents fn = false → exec (.doorbell fn q) s = .next s) ∧
  (∀ (fn q : Nat) (s : State), q < 4096 → s.presents fn = true → (mayRing s fn q → answers (.doorbell fn q) s fun t =>
      t = { s with kicks := t.kicks } ∧ ∀ k < 4096, t.kicks.getLsbD k = (s.kicks.getLsbD k || decide (k = q))) ∧
    (¬ mayRing s fn q → answers (.doorbell fn q) s fun t => t.kicks = s.kicks ∧
      (Store.get Ring.none t.rings fn).doorbellErrors = (Store.get Ring.none s.rings fn).doorbellErrors + 1)) ∧
  (∀ (q : Nat) (s : State), q < 4096 → s.kicks.getLsbD q = true → inCharge s (queueDie s q) → (s.queue q).conf.ctl.getLsbD 0 = true →
    (s.queue q).disabled = false → rowsWait s (queueLoc s q + 20) 4 = false →
    let n := (BitVec.ofNat 32 (s.readNat (queueLoc s q + 20) 4) - (s.queue q).head).toNat
    (n ≤ 2 ^ (s.queue q).conf.log2n.toNat → funcOk s q = true → rowsLost s (queueLoc s q + 20) 4 = false → answers (.kickScan q) s fun t => t.kicks.getLsbD q = false ∧
      (t.queue q).candidates = n ∧ (t.queue q).disabled = false) ∧
    (2 ^ (s.queue q).conf.log2n.toNat < n ∨ funcOk s q = false ∨ rowsLost s (queueLoc s q + 20) 4 = true → answers (.kickScan q) s fun t => t.kicks.getLsbD q = false ∧
      (t.queue q).disabled = true ∧ .queueFault q ∈ t.outbox)) ∧
  (∀ (q rec img n j p : Nat) (i : Image) (s : State), n = (s.queue q).conf.group.toNat → (s.group n).chosen = some q → (s.group n).running = none →
    q ∉ (s.group n).saved → launchable s q = true → inCharge s (s.group n).die → headRecord s q = some rec → recRefused s q rec = false →
    recRows rowsWait s q rec = false → recRows rowsLost s q rec = false →
    recDepends s q rec = (true, none) → recImage s q rec = some (img, i) →
    let ps := ((List.range 80).filter (s.group n).clusters.contains).flatMap fun c => strided (8 * c) 1 8
    (∀ k ∈ ps, (s.core k).free = true) → ps[j]? = some p → answers (.taskLaunch q) s fun t => (t.group n).running = some q ∧
      (t.queue q).running = true ∧ (t.core p).run = .waiting ∧ (t.core p).work.pc = BitVec.ofNat 64 i.entry ∧
      (t.core p).work.space = false ∧ (t.core p).work.readS 17 = BitVec.ofNat 64 j ∧ (t.core p).work.readS 18 = BitVec.ofNat 64 ps.length ∧
      (t.core p).work.readS 19 = BitVec.ofNat 64 (p / 8) ∧ (∀ w < 14, (t.core p).work.readS (w + 1) = (recArgs s q rec i.ctx).getD w 0) ∧
      (t.core p).work.v = [] ∧ (t.core p).work.stat = 0 ∧ (t.core p).work.flags = 0 ∧ (t.core p).work.prof = i.prof ∧
      (t.core p).com = (t.core p).work ∧ (t.core p).nextBanks = i.banks ∧ (t.core p).queue = q ∧ (t.core p).sup = false ∧
      (∀ v, Store.find? s.svecs i.ctx = some v → (t.core p).svec = v)) ∧
  (∀ (n q st : Nat) (l : List (Nat × Nat)) (s : State) (k : Task), inCharge s (s.group n).die → (s.sched (s.group n).die).ends = (q, st) :: l →
    (s.group n).running = some q → Store.find? s.tasks q = some k → Store.sortedFrom 0 s.tasks = true → (s.queue q).conf.group.toNat = n →
    answers (.taskCompletion n) s fun t => (t.queue q).head = (s.queue q).head + 1 ∧ (t.queue q).running = false ∧
      (t.group n).running = none ∧ Store.find? t.tasks q = none ∧ (t.sched (s.group n).die).ends = l) ∧
  (∀ (n : Nat) (s : State),
    let u := refreshRunnable n s
    let g := u.group n
    g.running = none → g.chosen = none → g.runnable ≠ [] → inCharge u g.die → ∃ t q, exec (.arbiterDecision n) s = .next t ∧
      (t.group n).chosen = some q ∧ q ∈ g.runnable ∧ ((∃ b ∈ g.runnable, nextRunOf u g b ≤ g.slice) → nextRunOf u g q ≤ g.slice) ∧
      (t.group n).r = g.slice ∧ ∀ b ∈ g.runnable, (nextRunOf u g b ≤ g.slice ∨ ∀ e ∈ g.runnable, g.slice < nextRunOf u g e) →
        (u.queue q).pass.toNat < (u.queue b).pass.toNat ∨ (u.queue q).pass = (u.queue b).pass ∧ q ≤ b) ∧
  (∀ (n q v : Nat) (s : State),
    let u := refreshRunnable n s
    let g := u.group n
    g.running = some q → g.asked = some v → 0 < v → q ∈ g.runnable → inCharge u g.die →
    let u' := charge n q v u
    let g' := u'.group n
    let c := s.cyc.toNat - g.lastDecision
    (u'.queue q).pass = (u.queue q).pass +
        BitVec.ofNat 64 (1048576 / max 1 (min (u.queue q).conf.tickets.toNat 1024) * ((c + 255) / 256)) ∧
      g'.r = g.r - c ∧ nextRunOf u' g' q = v ∧ g'.lastDecision = s.cyc.toNat ∧ g'.runnable = g.runnable ∧
      ∃ t b, exec (.arbiterDecision n) s = .next t ∧ b ∈ g.runnable ∧
        ((∃ e ∈ g.runnable, nextRunOf u' g' e ≤ g'.r) → nextRunOf u' g' b ≤ g'.r ∧ (t.group n).r = g'.r) ∧
        ((∀ e ∈ g.runnable, g'.r < nextRunOf u' g' e) → (t.group n).r = g.slice) ∧
        (∀ e ∈ g.runnable, (nextRunOf u' g' e ≤ g'.r ∨ ∀ d ∈ g.runnable, g'.r < nextRunOf u' g' d) →
          (u'.queue b).pass.toNat < (u'.queue e).pass.toNat ∨ (u'.queue b).pass = (u'.queue e).pass ∧ b ≤ e) ∧
        (t.group n).running = some q ∧ (t.group n).asked = none ∧ (t.queue q).pass = (u'.queue q).pass ∧
        (b = q → ∀ p, t.core p = s.core p) ∧
        (b ≠ q → (t.group n).chosen = some b ∧ (∀ p, p ∉ placedCores s q → t.core p = s.core p) ∧ ∀ p ∈ placedCores s q,
          (s.core p).active = true → (s.core p).preempt = .none → (s.core p).saveKind = none → (t.core p).preempt = .soft 3 s.cyc.toNat)) ∧
  (∀ (p : Nat) (s : State), (s.core p).active = true → 2 * (s.core p).stated < (s.core p).issued → (s.core p).overAt < (s.core p).issued →
    (s.core p).saveKind = none → ∀ since, (s.core p).preempt = .none ∧ since = s.cyc.toNat ∨ (s.core p).preempt = .soft 3 since →
    answers (.overrun p) s fun t =>
      t.core p = { s.core p with preempt := .soft 1 since, overran := some (s.core p).issued } ∧
      ((t.group (s.queue (s.core p).queue).conf.group.toNat).running = some (s.core p).queue →
        (t.group (s.queue (s.core p).queue).conf.group.toNat).chosen = none) ∧
      (∀ k, Store.find? s.tasks (s.core p).queue = some k → Store.find? t.tasks (s.core p).queue = some { k with leaving := true }) ∧
      ∀ q ∈ placedCores s (s.core p).queue, q ≠ p → (s.core q).active = true → (s.core q).preempt = .none → (s.core q).saveKind = none →
        t.core q = { s.core q with preempt := .soft 1 s.cyc.toNat }) ∧
  (∀ (d : Nat) (s : State),
    (inCharge s d → (s.sched d).standbyReady = true → answers (.schedulerTakeover d) s fun t =>
      (t.sched d).takeover = true ∧ (t.sched d).standbyReady = false ∧ (t.sched d).journal = (s.sched d).journal ∧ t.kicks = s.kicks) ∧
    (inCharge s d → (s.sched d).standbyReady = false → exec (.schedulerTakeover d) s = .next s) ∧
    ((s.sched d).takeover = true → answers (.schedulerTakeover d) s fun t => (t.sched d).takeover = false ∧
      t.agenda = (s.sched d).mailbox ++ s.agenda ∧ (∀ e ∈ s.queues, e.1 < 4096 → queueDie s e.1 = d → t.kicks.getLsbD e.1 = true)) ∧
    (answers (.schedulerCoreReload d) s fun t => t.sched d = { s.sched d with standbyReady := true }))

/-! ### Service commands, translation, the package -/

/-- R175, R178, R271 to R273, R282, R286, R287, R322, R326, R327, R331, R335: a service command that comes where the mailbox serves it is acknowledged and carried out while its die's scheduler is in charge, and held in its mailbox during a takeover; any other does nothing. (A kill goes to the scheduler of killDie, log 82; a command that names no die to die 0, log 51.) A group is formed of whole clusters of one partition that no other group has, and other clusters change nothing (log 96); the solera refuses a command whose activity is not in the state it needs, and a RETRY after one that failed with its activity has been discarded. -/
def Obligations.ServiceCommands : Prop :=
  (∀ (v : Via) (i : Instr) (d : Nat) (s : State),
    ((∃ c, i = .kill (v, c) ∧ d = killDie s c) ∨ (∃ q f, i = .queueConfiguration (v, q) f ∧ d = (s.group f.group.toNat).die) ∨
      (∃ n c l sl h, i = .groupConfiguration (v, n) (c :: l) sl h ∧ d = (l.foldl min c) / 20) ∨
      (d = 0 ∧ ((∃ a, i = .retry (v, a)) ∨ (∃ a, i = .discard (v, a)) ∨ (∃ a, i = .abandon (v, a)) ∨
        (∃ h r, i = .reductionGroupConfig (v, h) r) ∨ (∃ c a b, i = .channelConfig (v, c) a b) ∨ ∃ e u, i = .mapout (v, e) u))) →
    ((∃ fn, v = .function fn ∧ s.physical fn = false) ∨ (v = .management ∧ (s.mailboxOpen = false ∨ s.stage ≠ .ready)) → exec i s = .next s) ∧
    (mailboxTakes v s = true → (s.sched d).takeover = true →
      answers i s fun t => t = { s with scheds := t.scheds } ∧ (t.sched d).mailbox = (s.sched d).mailbox ++ [i]) ∧
    (mailboxTakes v s = true → inCharge s d → answers i s fun t => .acknowledged d i ∈ t.outbox)) ∧
  (∀ (v : Via) (q : Nat) (f : QueueConf) (s : State), mailboxTakes v s = true → inCharge s (s.group f.group.toNat).die →
    (q < 4096 → f.group.toNat < 80 → answers (.queueConfiguration (v, q) f) s fun t =>
      (t.queue q).conf = f ∧ (t.queue q).disabled = false ∧ (t.queue q).head = (s.queue q).head) ∧
    (4096 ≤ q ∨ 80 ≤ f.group.toNat → answers (.queueConfiguration (v, q) f) s fun t => t.queues = s.queues)) ∧
  (∀ (v : Via) (n c slice hpe : Nat) (l : List Nat) (s : State), mailboxTakes v s = true → inCharge s ((l.foldl min c) / 20) →
    (groupOk s n (c :: l) = true ↔ partitionOf s c ≠ none ∧ (∀ d ∈ l, partitionOf s d = partitionOf s c) ∧
      ∀ e ∈ s.groups, e.1 = n ∨ ∀ d ∈ e.2.clusters, d ∉ c :: l) ∧
    (groupOk s n (c :: l) = false → answers (.groupConfiguration (v, n) (c :: l) slice hpe) s fun t => t.groups = s.groups) ∧
    (groupOk s n (c :: l) = true → answers (.groupConfiguration (v, n) (c :: l) slice hpe) s fun t =>
      (t.group n).clusters = c :: l ∧ (t.group n).slice = max 65536 (min slice (2 ^ 24)) ∧ (t.group n).r = (t.group n).slice ∧
      (t.group n).hpe = max 4096 (min hpe (2 ^ 24)) ∧ ∀ k, k ≠ n → t.group k = s.group k)) ∧
  (∀ (v : Via) (id : Nat) (a : Activity) (s : State), mailboxTakes v s = true → inCharge s 0 → Store.sortedFrom 0 s.acts = true → Store.find? s.acts id = some a →
    (a.state = .failed → s.acts.countP (fun e => decide (e.2.state = .failed) && decide (e.2.merged = a.merged)) = a.mates →
      answers (.retry (v, id)) s fun t => ∀ k b, Store.find? s.acts k = some b → b.state = .failed → b.merged = a.merged →
      ∃ e, Store.find? t.acts k = some e ∧ (e.state = .abandoning ∨ e.state = .abandoned)) ∧
    (a.state = .failed → answers (.discard (v, id)) s fun t => Store.find? t.acts id = none ∧ ∀ r ∈ t.records, r.act ≠ id) ∧
    (a.state ≠ .failed ∨ s.acts.countP (fun e => decide (e.2.state = .failed) && decide (e.2.merged = a.merged)) ≠ a.mates →
      answers (.retry (v, id)) s fun t => t.acts = s.acts ∧ t.outbox = s.outbox ++ [.acknowledged 0 (.retry (v, id)), .commandRefused id]) ∧
    (a.state ≠ .failed → answers (.discard (v, id)) s fun t =>
      t.acts = s.acts ∧ t.outbox = s.outbox ++ [.acknowledged 0 (.discard (v, id)), .commandRefused id])) ∧
  (∀ (v : Via) (id : Nat) (ids : List Nat) (a : Activity) (s : State), mailboxTakes v s = true → inCharge s 0 → Store.find? s.acts id = some a →
    ((∀ k ∈ id :: ids, ∃ b, Store.find? s.acts k = some b ∧ (b.state = .open ∨ b.state = .ending) ∧ b.ctx = a.ctx) →
      (entanglement s (id :: ids) = none → answers (.abandon (v, id :: ids)) s fun t => ∀ k ∈ id :: ids, ∃ b, Store.find? t.acts k = some b ∧
        (b.state = .abandoning ∨ b.state = .abandoned)) ∧
      (entanglement s (id :: ids) ≠ none → answers (.abandon (v, id :: ids)) s fun t => t.acts = s.acts ∧
        t.outbox = s.outbox ++ [.acknowledged 0 (.abandon (v, id :: ids)), .commandRefused id])) ∧
    ((∃ k ∈ id :: ids, ∀ b, Store.find? s.acts k = some b → ¬ ((b.state = .open ∨ b.state = .ending) ∧ b.ctx = a.ctx)) →
      answers (.abandon (v, id :: ids)) s fun t => t.acts = s.acts ∧
        t.outbox = s.outbox ++ [.acknowledged 0 (.abandon (v, id :: ids)), .commandRefused id])) ∧
  (∀ (v : Via) (h : Nat) (ranks : List Nat) (s : State), mailboxTakes v s = true → inCharge s 0 → ranks.Nodup → 2 ≤ ranks.length → ranks.length ≤ 4096 → s.redGroups.length < 1024 →
    answers (.reductionGroupConfig (v, h) ranks) s fun t => Store.find? t.redGroups h = some ⟨ranks, [], 0, false, []⟩) ∧
  (∀ (v : Via) (ch a b : Nat) (s : State), mailboxTakes v s = true → inCharge s 0 → ch < 4096 → answers (.channelConfig (v, ch) a b) s fun t =>
    Store.find? t.channels ch = some ⟨a, b, [], [], 0, []⟩) ∧
  (∀ (v : Via) (die unit : Nat) (s : State), mailboxTakes v s = true → inCharge s 0 → answers (.mapout (v, die) unit) s fun t => unit ∈ (t.lifeOf die).mappedOut ∧
    (∀ u, u ∈ (s.lifeOf die).mappedOut → u ∈ (t.lifeOf die).mappedOut) ∧ ∀ d, d ≠ die → t.lifeOf d = s.lifeOf d)

/-- R289, R295 to R297, R301 to R307, R325 to R328: a shootdown enters the one order of the package, its address rounded down to its page (log 55), by itself or from its die's ring, which stands in the die's journal region (log 71) and whose doorbell a physical function has; a reserved kind is dropped, and the oldest completes once no buffer maps its range and the engines keep no copy that it covers; a translation fault holds its operation and makes one entry of the die of the core that released it (log 56), which stands in the die's ring; RETRY, by itself or through the doorbell, lets the operations walk again, DECLINE and the timeout have them end, with 0x02 or 0x03, as soon as what comes before them is performed; a page move swaps a PTE that still stands after its contents are copied, leaves a page of a failed device alone and gives up a target frame there; its arrival frees the source frame; frames that are not free, aligned and backed are ignored (log 58). A foreign agent reads and writes the bytes of memory, over the ports 24 to 27 where it is no peer (log 59), and a read of more bytes than a packet holds is answered in parts (log 95); those of a page that has moved are found in its new frame (log 57); a host's write leaves the queues of other partitions alone, and a write that does not, or that touches a die's cellar and comes from no host, is dropped (log 96). What meets a row that waits for its scrub is held until the scrub has ended; a command of a ring that holds uncorrectable data is dropped (log 73). -/
def Obligations.TranslationEvents : Prop :=
  (∀ (ctx len : Nat) (va cva : Word) (s : State),
    exec (.shootdownPage ctx 0 va cva) s = .next { s with shootdowns := s.shootdowns ++ [⟨0, ctx, va.toNat / 4096 * 4096, 4096, cva⟩] } ∧
    exec (.shootdownPage ctx 1 va cva) s =
      .next { s with shootdowns := s.shootdowns ++ [⟨0, ctx, va.toNat / 2097152 * 2097152, 2097152, cva⟩] } ∧
    exec (.shootdownPage ctx 2 va cva) s =
      .next { s with shootdowns := s.shootdowns ++ [⟨0, ctx, va.toNat / 1073741824 * 1073741824, 1073741824, cva⟩] } ∧
    exec (.shootdownRange ctx va len cva) s = .next { s with shootdowns := s.shootdowns ++ [⟨1, ctx, va.toNat, 4096 * len, cva⟩] } ∧
    exec (.shootdownContext ctx cva) s = .next { s with shootdowns := s.shootdowns ++ [⟨2, ctx, 0, 0, cva⟩] } ∧
    exec (.shootdownAll cva) s = .next { s with shootdowns := s.shootdowns ++ [⟨3, 0, 0, 0, cva⟩] }) ∧
  (∀ (d : Shootdown) (l : List Shootdown) (s : State), s.shootdowns = d :: l → ∃ t, exec .shootdownComplete s = .next t ∧ t.shootdowns = l ∧
    (d.kind ≤ 1 → ∀ e ∈ t.tlb, e.ctx = d.ctx → e.va + e.size ≤ d.va ∨ d.va + d.len ≤ e.va) ∧ (d.kind = 2 → (∀ e ∈ t.tlb, e.ctx ≠ d.ctx) ∧
      (∀ e ∈ t.walks, e.ctx ≠ d.ctx) ∧ t.engRoots = Store.erase s.engRoots d.ctx ∧ t.engSegs = Store.erase s.engSegs d.ctx) ∧
    (d.kind = 3 → t.tlb = [] ∧ t.walks = [] ∧ t.engRoots = [] ∧ t.engSegs = []) ∧ (∀ e ∈ t.tlb, e ∈ s.tlb) ∧ (d.cva = 0 → ∀ a, t.readByte a = s.readByte a) ∧
    (∀ loc, memInv s → d.cva ≠ 0 → cvaLoc 0 d.cva.toNat = some loc → s.isPoisoned loc = false → s.scrubs loc = false → (∀ n < 8, outsideRecords s (loc + n)) →
      t.readNat loc 8 = arriveVal (s.readNat loc 8) % 2 ^ 64)) ∧
  (∀ (fn die ring h : Nat) (s : State), s.physical fn = true → regionAt s die shootdownRing = some ring → Store.get 0 s.ringHeads die = h → h + 1 < 2 ^ 32 →
    let loc := ring + 32 * (h % 256)
    let bell : Instr := .registerWrite (.shootdownDoorbell fn die) (BitVec.ofNat 64 (h + 1))
    (rowsWait s loc 32 = false → answers bell s fun t => Store.get 0 t.ringHeads die = h + 1 ∧
      (rowsLost s loc 32 = false → s.readNat (loc + 2) 1 = 2 →
        t.shootdowns = s.shootdowns ++ [⟨2, s.readNat loc 2, 0, 0, BitVec.ofNat 64 (s.readNat (loc + 24) 8)⟩]) ∧
      (rowsLost s loc 32 = true ∨ 4 ≤ s.readNat (loc + 2) 1 → t.shootdowns = s.shootdowns)) ∧
    (rowsWait s loc 32 = true → exec bell s = .next { s with heldInputs := s.heldInputs ++ [bell] })) ∧
  (∀ (k : Nat) (f : PagedFault) (s : State) (o : EngineOp), memInv s → Store.find? s.ops k = some o → o.stage = .running → pagedFault s o = some f →
    let row := o.cmd.rowOf f.elem
    let e : FaultEntry := ⟨f.page, o.ctx, f.write.toNat, f.perm, o.origin.1, [(k, row)], s.cyc.toNat⟩
    let die := dieOf o.origin.1
    (s.faults = [] → (∀ n < 1024, ∀ loc, regionAt s die (faultRing + 32 * n) = some loc → rowsWait s loc 32 = false) → ∃ t key, exec (.translationFault k) s = .next t ∧ Store.find? t.ops k = some { o with stage := .held } ∧
      key / 1024 = die ∧ Store.find? t.faults key = some e ∧
      ∀ loc, regionAt s die (faultRing + 32 * (key % 1024)) = some loc → ∀ n < 32, t.readByte (loc + n) = e.bytes.getD n 0) ∧
    (∀ key e, s.faults = [(key, e)] → e.ctx = o.ctx → e.va = f.page → e.access = f.write.toNat → answers (.translationFault k) s fun t =>
      Store.find? t.ops k = some { o with stage := .held } ∧ t.faults = [(key, { e with ops := e.ops ++ [(k, row)] })])) ∧
  (∀ (die n : Nat) (s : State) (e : FaultEntry), n < 1024 → Store.sortedFrom 0 s.faults = true → Store.sortedFrom 0 s.ops = true →
    Store.find? s.faults (1024 * die + n) = some e →
    (answers (.faultRetry die n) s fun t => Store.find? t.faults (1024 * die + n) = none ∧
      (∀ x ∈ t.tlb, x.ctx = e.ctx → e.va < x.va ∨ x.va + x.size ≤ e.va) ∧
      ∀ q ∈ e.ops, ∀ o, Store.find? s.ops q.1 = some o → Store.find? t.ops q.1 = some { o with stage := .running }) ∧
    (answers (.faultDecline die n) s fun t => Store.find? t.faults (1024 * die + n) = none ∧
      ∀ q ∈ e.ops, ∀ o, Store.find? s.ops q.1 = some o → ∃ row, (q.1, row) ∈ e.ops ∧
        Store.find? t.ops q.1 = some { o with stage := .running, limit := some (row, if e.permission then 3 else 2) }) ∧
    (∀ fn loc, s.physical fn = true → regionAt s die (faultRing + 32 * n) = some loc →
      let bell : Instr := .registerWrite (.faultDoorbell fn die) (BitVec.ofNat 64 n)
      (rowsWait s loc 32 = false → s.isPoisoned (loc + 11) = false →
        (s.readNat (loc + 11) 1 = 1 → exec bell s = exec (.faultRetry die n) s) ∧
        (s.readNat (loc + 11) 1 = 2 → exec bell s = exec (.faultDecline die n) s)) ∧
      (rowsWait s loc 32 = true → exec bell s = .next { s with heldInputs := s.heldInputs ++ [bell] })) ∧
    (e.since + s.ftoOf die ≤ s.cyc.toNat → exec (.faultTimeout die n) s = exec (.faultDecline die n) s) ∧
    (s.cyc.toNat < e.since + s.ftoOf die → exec (.faultTimeout die n) s = .next s)) ∧
  (∀ (k pa : Nat) (s : State) (m : PageMove), memInv s → s.moves = [m] → m.op = k → m.moved = false → m.target = some pa →
    (frameFailed s m.source m.size = true → exec (.pageMove k) s = .next s) ∧
    (frameFailed s m.source m.size = false → frameFailed s pa m.size = true →
      exec (.pageMove k) s = .next { s with moves := [{ m with target := none }] }) ∧
    (frameFailed s m.source m.size = false → frameFailed s pa m.size = false → s.readNat m.pte 8 = m.word → (m.pte + 8 ≤ pa ∨ pa + m.size ≤ m.pte) → (m.source + m.size ≤ pa ∨ pa + m.size ≤ m.source) →
      answers (.pageMove k) s fun t => t.moves = [{ m with moved := true }] ∧ (∀ n < m.size, t.readByte (pa + n) = s.readByte (m.source + n)) ∧
        t.readNat m.pte 8 / 2 ^ 12 % 2 ^ 40 = pa / 4096 % 2 ^ 40 ∧ t.readNat m.pte 8 / 16 % 4 = 0 ∧ t.readNat m.pte 8 % 16 = m.word % 16 ∧
        (∀ e ∈ t.tlb, e.ctx = m.ctx → e.va + e.size ≤ m.va ∨ m.va + m.size ≤ e.va)) ∧
    (frameFailed s m.source m.size = false → frameFailed s pa m.size = false → s.readNat m.pte 8 ≠ m.word → answers (.pageMove k) s fun t => t.moves = [] ∧
      pa ∈ Store.get [] t.pools (poolKey (tierOf pa) m.size) ∧ (∀ o, Store.find? s.ops k = some o → Store.find? t.ops k = some { o with arrived := o.arrived ++ [m.va] }))) ∧
  (∀ (k : Nat) (s : State) (m : PageMove), s.moves = [m] → m.op = k → m.moved = true → answers (.pageArrival k) s fun t => t.moves = [] ∧
    m.source ∈ Store.get [] t.pools (poolKey (tierOf m.source) m.size) ∧
    (∀ o, Store.find? s.ops k = some o → Store.find? t.ops k = some { o with arrived := o.arrived ++ [m.va] }) ∧
    ((m.deadline = 0 ∨ s.gstep.toNat ≤ m.deadline) → ∀ a, t.readByte a = s.readByte a)) ∧
  (∀ (tier sz pa : Nat) (s : State), sz ≤ 2 → pa % pageSize sz = 0 → tierOf pa = tier → backedPA s.cxlSize pa = true →
    backedPA s.cxlSize (pa + (pageSize sz - 1)) = true → answers (.framePoolFill tier sz [pa]) s fun t =>
      Store.get [] t.pools (poolKey tier (pageSize sz)) = Store.get [] s.pools (poolKey tier (pageSize sz)) ++ [pa]) ∧
  (∀ (k row code : Nat) (s : State) (o : EngineOp), Store.sortedFrom 0 s.ops = true → Store.find? s.ops k = some o → o.stage = .running →
    opBlocked s o = false → o.cmd.kind ≠ .cpyt → o.limit = some (row, code) →
    answers (.engineCompletion k) s fun t => Store.find? t.ops k = none) ∧
  (∀ (port pa n : Nat) (s : State), foreignRange s pa n = true → foreignWaits s pa n = true →
    (quarantined s port = true → (Store.get [] s.quarantine port).length < 64 ∧
      (Store.get [] s.quarantine port).length + (n + 262143) / 262144 ≤ 64) →
    exec (.foreignRead port pa n) s = .next { s with heldInputs := s.heldInputs ++ [.foreignRead port pa n] }) ∧
  (∀ (port pa n : Nat) (s : State), foreignRange s pa n = true → foreignWaits s pa n = false → 262144 < n →
    (quarantined s port = true → (Store.get [] s.quarantine port).length + (n + 262143) / 262144 ≤ 64) →
    exec (.foreignRead port pa n) s =
      .next { s with agenda := .foreignRead port pa 262144 :: .foreignRead port (pa + 262144) (n - 262144) :: s.agenda }) ∧
  (∀ (port pa n : Nat) (s : State), foreignRange s pa n = true → foreignWaits s pa n = false → n ≤ 262144 →
    (∀ k < n, s.isPoisoned (currentLoc s (pa + k)) = false) →
    (quarantined s port = false → answers (.foreignRead port pa n) s fun t =>
      t.outbox = s.outbox ++ [.foreignData port ((List.range n).map fun k => s.readByte (currentLoc s (pa + k)))] ∧ ∀ a, t.readByte a = s.readByte a) ∧
    (quarantined s port = true → (Store.get [] s.quarantine port).length < 64 → ∃ t q, exec (.foreignRead port pa n) s = .next t ∧
      Store.get [] t.quarantine port = Store.get [] s.quarantine port ++ [q] ∧ q.readAt = s.cyc.toNat ∧ q.poisoned = false ∧
      q.bytes = (List.range n).map fun k => s.readByte (currentLoc s (pa + k))) ∧
    (quarantined s port = true → 64 ≤ (Store.get [] s.quarantine port).length → exec (.foreignRead port pa n) s = .next s)) ∧
  (∀ (pa : Nat) (s : State), ((∀ m ∈ s.moves, m.moved = false) → currentLoc s pa = pa) ∧
    ∀ m t, s.moves = [m] → m.moved = true → m.target = some t → m.source ≤ pa → pa < m.source + m.size → currentLoc s pa = t + (pa - m.source)) ∧
  (∀ (port fn pa : Nat) (bs : List Byte) (s : State),
    let host := s.hostPorts.contains (port - 24) = true
    let mine := s.presents fn = true ∧ s.functionPort fn = port ∧ appendOk s fn pa bs.length = true
    (foreignRange s pa bs.length = true → 24 ≤ port → port < 28 → (host → mine) → (¬ host → cellarSpan pa bs.length = false) →
      foreignWaits s pa bs.length = true → exec (.foreignWrite (port, fn) pa bs) s =
        .next { s with heldInputs := s.heldInputs ++ [.foreignWrite (port, fn) pa bs] }) ∧
    (memInv s → foreignWaits s pa bs.length = false → foreignRange s pa bs.length = true → 24 ≤ port → port < 28 → (host → mine) → (¬ host → cellarSpan pa bs.length = false) →
      (∀ m ∈ s.moves, m.moved = false) → answers (.foreignWrite (port, fn) pa bs) s fun t => (∀ k < bs.length, t.readByte (pa + k) = bs.getD k 0) ∧
        (compressedPages s pa bs.length = [] → ∀ a, a < pa ∨ pa + bs.length ≤ a → t.readByte a = s.readByte a)) ∧
    (foreignRange s pa bs.length = false ∨ port < 24 ∨ 28 ≤ port ∨ host ∧ ¬ mine ∨ ¬ host ∧ cellarSpan pa bs.length = true →
      exec (.foreignWrite (port, fn) pa bs) s = .next s) ∧
    (appendOk s fn pa bs.length = true → ∀ e ∈ s.queues, functionHas s fn e.1 = false →
      queueLoc s e.1 + 64 ≤ pa ∨ pa + bs.length ≤ queueLoc s e.1 ∨ bs = []))

/-- R5, R281, R305, R311, R313, R314, R319 to R330, R333 to R336, R339: after cold reset SRAM reads as zero, every core stands at its reset values and the trusted base comes next; bring-up sets the port roles, maps the tier, sets CTBASE and the slices and opens the functions, and a stage whose check fails, which is an input here (log 61), ends there and is reported; the management port answers once its stage runs; a flit of an endpoint is taken and acknowledged once, in its order (the numbering is log 98's), a bad one is asked for again, and the sixteenth replay fails the link; one that writes a row that waits for its scrub waits for it, and those after it; packets leave D cycles after they were read, unless poisoned, over a link in service with room in its replay buffer; counts wait D cycles; an epoch writes the counts to both copies of non-volatile storage; a tick ends at its cycle, 256 cycles after the last one, or within 8 of that where the chip follows another (log 64); droops, the power cap and register writes do what they say, a register that is not there yet takes none (R326, R333), and a value outside its range is stored as it is (log 65), the words of the supervisor's segment table included (log 68). (The model's too: the lifetime data after a reset, log 62; the registers contextSvec, contextMode and contextSave, log 46; mailboxEnable and the writes that are dropped, log 96; the MSI-X table, log 88, PRESUMED from PCI; a device of the tier and its failure, log 86.) -/
def Obligations.PackageEvents : Prop :=
  (∀ s : State, answers .coldReset s fun t => (∀ a, sramBase ≤ a → t.readByte a = 0) ∧ (∀ p, t.core p = Core.reset) ∧
    (s.fails 1 = false → t.stage = .trustedBase ∧ t.outbox = s.outbox) ∧ (s.fails 1 = true → t.stage = .stopped ∧ .stageFailed 1 ∈ t.outbox) ∧
    t.poisoned = [] ∧ t.cyc = 0 ∧ t.queues = [] ∧ t.counters = s.counters ∧ t.hostmask = s.hostmask ∧
    t.life = s.life.map fun (d, l) => (d, l.afterReset (Config.lifeBad (s.free + d)))) ∧
  (∀ (parts : List PartConf) (conf : ServiceConf) (s : State),
    (s.stage = .trustedBase → answers .trustedBaseFirmware s fun t => (s.fails 2 = false → t.stage = .service) ∧
      (s.fails 2 = true → t.stage = .trustedBase ∧ .stageFailed 2 ∈ t.outbox) ∧ t.hostPorts.length ≤ 2 ∧
      (∀ k ∈ t.hostPorts, (t.link (24 + k)).up = true) ∧
      ∀ k, k ∈ t.hostPorts ↔ (s.hostmask = 0 ∧ k = 0) ∨
        (k < 4 ∧ s.hostmask.getLsbD k = true ∧ ((List.range k).countP fun j => s.hostmask.getLsbD j) < 2)) ∧
    (s.stage = .service → s.fails 3 = false → answers (.serviceFirmware parts conf) s fun t => t.stage = .ready ∧ t.cxlSize ≤ 0x80000000000 ∧
      t.ctbase = conf.ctbase &&& 0xFFFFFFFFFFFFF ∧ (∀ n < 24, (t.link n).up = true) ∧ (∀ k < 4, k ∉ s.hostPorts → (t.link (24 + k)).up = true) ∧
      (∀ n sl h, conf.slices = [(n, sl, h)] → (t.group n).slice = max 65536 (min sl (2 ^ 24)) ∧ (t.group n).hpe = max 4096 (min h (2 ^ 24))) ∧
      (∀ q ∈ t.parts, ∀ c ∈ q.clusters, c < 80 ∧ clusterRetired t c = false) ∧
      t.parts.Pairwise fun a b => ∀ c ∈ a.clusters, c ∉ b.clusters) ∧
    (s.stage = .service → s.fails 3 = true → answers (.serviceFirmware parts conf) s fun t => t = { s with outbox := s.outbox ++ [.stageFailed 3] }) ∧
    (s.stage ≠ .service → exec (.serviceFirmware parts conf) s = .next s)) ∧
  (∀ (nonce : BitVec 256) (die : Nat) (s : State),
    (s.stage = .service ∨ s.stage = .ready →
      (∃ bs, exec (.attestationRequest nonce) s = .next { s with outbox := s.outbox ++ [.report bs] } ∧ bs.length = 3621 ∧
        bs.take 4 = [1, 0, 0, 0] ∧ ((bs.drop 16).take 32) = toBytes 32 nonce.toNat) ∧
      ∃ key, exec .identityKeyRequest s = .next { s with outbox := s.outbox ++ [.identity key Config.certChain] } ∧ key.length = 1952) ∧
    (s.stage = .ready → (∃ head l, exec (.lifetimeRead die) s = .next { s with outbox := s.outbox ++ [.lifetime die ((0, head) :: l)] } ∧
        head.length = 64 ∧ head.take 8 = [1, 0, 0, 0] ++ toBytes 4 die ∧ (head.drop 8).take 8 = toBytes 8 (s.lifeOf die).epoch) ∧
      exec (.counterRead die) s = .next { s with outbox := s.outbox ++ [.counters die (Store.get [] s.counters die)] }) ∧
    (s.stage = .rom → exec (.attestationRequest nonce) s = .next s ∧ exec (.lifetimeRead die) s = .next s)) ∧
  (∀ (n seq : Nat) (good : Bool) (x : FlitLoad) (s : State), seq < 2 ^ 20 → (s.link n).up = true → (s.link n).rx < 2 ^ 20 →
    (flitWaits n x s = true → exec (.flitReceive n seq good x) s = .next { s with heldInputs := s.heldInputs ++ [.flitReceive n seq good x] }) ∧
    (flitWaits n x s = false →
    let old := ((s.link n).rx + 2 ^ 20 - seq) % 2 ^ 20
    (good = true → seq = (s.link n).rx → answers (.flitReceive n seq good x) s fun t => .flitAck n ((seq + 1) % 2 ^ 20) ∈ t.outbox ∧
      ((∀ k, x ≠ .again k) → (t.link n).rx = (seq + 1) % 2 ^ 20 ∧ (t.link n).replays = 0 ∧ (t.link n).up = true) ∧
      (∀ ch bs c, x = .data ch bs → n < 24 → Store.find? s.channels ch = some c → remote c.sender = true →
        Store.find? t.channels ch = some { c with inbox := c.inbox ++ bs }) ∧
      (∀ pa bs, x = .write pa bs → n < 24 → memInv s → foreignRange s pa bs.length = true → cellarSpan pa bs.length = false →
        (∀ m ∈ s.moves, m.moved = false) → ∀ k < bs.length, t.readByte (pa + k) = bs.getD k 0) ∧
      (∀ k, x = .ack k → ∀ u, u ∈ (t.link n).unacked ↔ u ∈ (s.link n).unacked ∧ (u.1 + 2 ^ 20 - k % 2 ^ 20) % 2 ^ 20 < 2 ^ 19)) ∧
    (good = true → seq ≠ (s.link n).rx → old < 2 ^ 19 → exec (.flitReceive n seq good x) s = .next s) ∧
    (good = false ∨ 2 ^ 19 ≤ old → (seq = (s.link n).rx → (s.link n).replays < 15) → (s.link n).replays < 16 →
      answers (.flitReceive n seq good x) s fun t => (t.link n).rx = (s.link n).rx ∧ .replayRequest n seq ∈ t.outbox ∧
        (seq = (s.link n).rx → (t.link n).replays = (s.link n).replays + 1) ∧ t.channels = s.channels ∧ t.mem = s.mem) ∧
    (good = false → seq = (s.link n).rx → 15 ≤ (s.link n).replays → answers (.flitReceive n seq good x) s fun t => (t.link n).up = false)) ∧
    (answers (.linkFail n) s fun t => (t.link n).up = false ∧ (s.ops = [] → ∀ a, outsideRecords s a → t.readByte a = s.readByte a))) ∧
  (∀ (n : Nat) (s : State),
    (n < 28 → (s.link n).up = false → exec (.linkRetrain n) s =
      .next { s with links := Store.put s.links n { s.link n with up := true, replays := 0, unacked := [], resent := 0 } }) ∧
    (28 ≤ n ∨ (s.link n).up = true → exec (.linkRetrain n) s = .next s)) ∧
  (∀ (e : Nat) (q : Packet) (l : List Packet) (s : State), Store.get [] s.quarantine e = q :: l →
    (q.poisoned = false → q.readAt + Config.commitDelay ≤ s.cyc.toNat → (s.link e).up = true → bufferRoom (s.link e) q = true →
      (∀ r ∈ s.rings, r.2.waiting = []) → answers (.packetRelease e) s fun t => Store.get [] t.quarantine e = l ∧
        (t.link e).unacked = (s.link e).unacked ++ packetFlits (s.link e) q ∧
        (∀ k off, q.source = .redx k off ∨ q.source = .send k off → t.outbox = s.outbox ++ [.packet e q.bytes]) ∧
        (q.source = .kept ∨ (∃ pa n, q.source = .foreign pa n) → t.outbox = s.outbox ++ [.foreignData e q.bytes]) ∧
        (∀ fn vec addr, q.source = .entry fn vec addr → (∃ r, t.outbox = s.outbox ++ .completionEntry fn addr q.bytes :: r) ∧
          (Store.get Ring.none t.rings fn).tail = ((Store.get Ring.none s.rings fn).tail + 1) % 2 ^ 32)) ∧
    (q.poisoned = true ∨ s.cyc.toNat < q.readAt + Config.commitDelay ∨ (s.link e).up = false ∨ bufferRoom (s.link e) q = false →
      exec (.packetRelease e) s = .next s) ∧
    (∀ pa n, q.poisoned = true → q.source = .foreign pa n → l = [] → s.moves = [] → (∀ r ∈ q.regions, r ∉ s.scrubbing) →
      (∀ k < n, s.isPoisoned (pa + k) = false) → answers (.packetRebuild e) s fun t => Store.get [] t.quarantine e =
        [{ q with readAt := s.cyc.toNat, poisoned := false, bytes := (List.range n).map fun k => s.readByte (pa + k) }])) ∧
  (∀ (d p n : Nat) (s : State) (x : Deferred), s.deferred = [x] → x.core = p → dieOf p = d → x.entries = [n] → n < 1024 →
    (x.due < s.cyc.toNat → x.strike = false → answers (.histogramCount d) s fun t => t.deferred = [] ∧
      (t.lifeOf d).hist = Store.set 0 (s.lifeOf d).hist (1024 * (p % 160) + n)
        (histEvent (s.lifeOf d).epoch (Store.get 0 (s.lifeOf d).hist (1024 * (p % 160) + n)))) ∧
    (x.due < s.cyc.toNat → x.strike = true → answers (.histogramCount d) s fun t => t.deferred = [] ∧ (t.lifeOf d).hist = (s.lifeOf d).hist) ∧
    (s.cyc.toNat ≤ x.due → answers (.histogramCount d) s fun t => t.deferred = [x])) ∧
  (∀ (d : Nat) (s : State),
    let kept (l m : Lifetime) : Prop := m.nvHist = l.hist ∧ m.nvHist2 = l.hist ∧ m.nvCounters = l.counters ∧ m.nvCounters2 = l.counters
    ((s.lifeOf d).ends ≤ s.cyc.toNat → answers (.epochEnd d) s fun t => kept (s.lifeOf d) (t.lifeOf d) ∧
      (t.lifeOf d).epoch = (s.lifeOf d).epoch + 1 ∧ (t.lifeOf d).ends = (s.lifeOf d).ends + 2 ^ 42) ∧
    (s.cyc.toNat < (s.lifeOf d).ends → exec (.epochEnd d) s = .next s) ∧
    (answers .orderlyShutdown s fun t => kept (s.lifeOf d) (t.lifeOf d))) ∧
  (∀ (k n j : Nat) (r : RegName) (v : Word) (h : BitVec 32) (s : State),
    (s.tickEnd ≤ s.cyc.toNat → ∃ m, exec .gstepTick s = .next { s with gstep := s.gstep + 1, tickEnd := s.tickEnd + m, free := s.free + 1 } ∧
      248 ≤ m ∧ m ≤ 264 ∧ (s.domain = false ∨ s.chip = 0 → m = 256)) ∧
    (s.cyc.toNat < s.tickEnd → exec .gstepTick s = .next s) ∧
    ((s.tiers.getD k []).getD j 0 ≠ 0 → (k, j) ∉ s.failedDevices → answers (.tierDeviceFailure (k, j)) s fun t => (k, j) ∈ t.failedDevices ∧
      (s.ops = [] → ∀ a, outsideRecords s a → t.readByte a = s.readByte a)) ∧
    (answers (.droop k) s fun t => t = { s with stretch := t.stretch } ∧ Store.get 0 t.stretch k = Store.get 0 s.stretch k + 1) ∧
    (answers (.powerCapWindow n) s fun t => t = { s with counters := t.counters } ∧ ∀ d < 4, ∀ w, w ≠ 7 →
      (Store.sortedFrom 0 (Store.get [] s.counters d) = true →
        Store.get 0 (Store.get [] t.counters d) w = Store.get 0 (Store.get [] s.counters d) w ∧
        (Store.get 0 (Store.get [] t.counters d) 7).toNat = min ((Store.get 0 (Store.get [] s.counters d) 7).toNat + n) (2 ^ 64 - 1))) ∧
    (registerOpens r s = false → exec (.registerWrite r v) s = .next s) ∧
    (registerOpens r s = true → answers (.registerWrite r v) s fun t =>
      ((∀ f d, r ≠ .faultDoorbell f d) → (∀ a, t.readByte a = s.readByte a) ∧ ((∀ p c, r ≠ .contextSave p c) → t.cores = s.cores)) ∧
      (r = .contextSvec k → Store.find? t.svecs k = some (v &&& ~~~0x1F)) ∧ (r = .contextMode k → Store.find? t.modes k = some (v.setWidth 3)) ∧
      (r = .contextSave k n → Store.find? (t.core k).areas n = some (v &&& ~~~0xFFFFF)) ∧ (r = .chip → t.chip = v.setWidth 12) ∧
      (r = .gstep → (s.domain = false → s.tasks = [] → t.gstep = v ∧ t.domain = true ∧ t.tickEnd = s.cyc.toNat + 256) ∧
        (s.domain = true ∨ s.tasks ≠ [] → t = s)) ∧
      (r = .hostmask → t.hostmask = v.setWidth 4) ∧ (r = .mailboxEnable → t.mailboxOpen = v.getLsbD 0) ∧
      (r = .stageFails k → t.fails k = v.getLsbD 0) ∧
      (r = .pcap → t.pcap = v.toNat) ∧ (r = .fto k → t.ftoOf k = v.toNat) ∧ (r = .ctbase → t.ctbase = v &&& 0xFFFFFFFFFFFFF) ∧
      (r = .wepoch k → (t.lifeOf k).wepoch = v.toNat % 2 ^ 32) ∧ (r = .wlife k → (t.lifeOf k).wlife = v.toNat % 2 ^ 32) ∧
      (r = .crbase k → (Store.get Ring.none t.rings k).base = v &&& ~~~0xF) ∧
      (r = .crlog2 k → (Store.get Ring.none t.rings k).log2 = v.toNat % 2 ^ 32) ∧
      (n < 64 → (r = .msix k n 0 → (Store.get MsixEntry.reset t.msix (64 * k + n)).addr = v &&& ~~~3) ∧
        (r = .msix k n 1 → (Store.get MsixEntry.reset t.msix (64 * k + n)).data = v.setWidth 32 ∧
          (Store.get MsixEntry.reset t.msix (64 * k + n)).masked = v.getLsbD 32)) ∧
      (∀ w < 4, k < 64 → r = .supSegment k w → (Store.get 0 t.supSegs k).extractLsb' (64 * w) 64 = (if w = 3 then v &&& 0x1D else v) ∧
        ∀ u < 4, u ≠ w → (Store.get 0 t.supSegs k).extractLsb' (64 * u) 64 = (Store.get 0 s.supSegs k).extractLsb' (64 * u) 64)) ∧
    (s.presents k = true → answers (.crheadWrite k h) s fun t => (Store.get Ring.none t.rings k).head = h.toNat ∧ t.outbox = s.outbox) ∧
    (s.presents k = false → exec (.crheadWrite k h) s = .next s))

/-! ### Steps, words and invariants -/

/-- A step takes the event at the head of the agenda; where that is the issue of a core's bundle, and the bundle holds one word that is no NOP, the word's instruction runs on the core as it is just before the bundle, and what follows the bundle follows (R66, R68, R77, R93). -/
def Obligations.StepRunsTheDecodedWord : Prop :=
  (∀ (i : Instr) (l : List Instr) (s : State), s.agenda = i :: l → step s = exec i { s with agenda := l }) ∧
  (∀ (p k : Nat) (w : SlotWord) (i : Instr) (b : Bundle) (s t : State), ready p s = .go b t → (t.core p).work.recov = none → (headerOf b).rz = false → (headerOf b).reserved = false →
    (k, w) ∈ slotWords b → (∀ q ∈ slotWords b, q.1 ≠ k → q.2 = 0) → decodeSlot k w = .ok i →
    let c := t.core p
    let u := { (t.onCore p fun c => { c.land c.work.bno with work := { (c.land c.work.bno).work with comps := hitsAt t p c.work.pc b } }) with
      cur := p }.onCore p fun c => { c with lx := (headerOf b).lx, lit := bundleWord b 7, dropped := [] }
    let r := slotRun i u
    (u.core p).hzd = false ∨ (u.core p).sup = true →
    ((r.core p).sync ≠ none ∨
      (((r.core p).owedEntries ≤ 64 ∨ (r.core p).owedEntries ≤ c.owedEntries) ∧ (overLimits (r.core p) = false ∨ c.atMark = true))) →
    exec (.bundleIssue p) s = .next (settleWith p t r (finishBundle p (headerOf b))) ∧
      step { s with agenda := .bundleIssue p :: s.agenda } = .next (settleWith p t r (finishBundle p (headerOf b)))) ∧
  (∀ (i : Instr) (f : Fields) (s : State), slotFields i = some f → (∀ g, i ≠ .rcall g) → exec i s = .next (settle s.cur s (slotRun i s)))

/-- Tables 4.3 and 4.8 to 4.12: words written out from the encodings of the spec decode to the instructions they stand for. -/
def Obligations.WrittenWordsDecode : Prop :=
  decodeSlot 1 0x0871C921#32 = .ok (.sub ⟨7, 7, 9, 2, 1⟩) ∧ decodeSlot 1 0x4838BE06#32 = .ok (.ld ⟨3, 34, 62, 0, 6⟩) ∧
  decodeSlot 1 0x68B14103#32 = .ok (.loop ⟨11, 5, 1, 0, 3⟩) ∧ decodeSlot 2 0x04924A52#32 = .ok (.vadd .v0 ⟨9, 9, 10, 5, 2⟩) ∧
  decodeSlot 3 0x84914828#32 = .ok (.vst .v1 ⟨9, 5, 8, 2, 8⟩) ∧ decodeSlot 4 0x0491A90A#32 = .ok (.opa ⟨9, 6, 41, 0, 10⟩) ∧
  decodeSlot 4 0x18508001#32 = .ok (.zflush ⟨5, 2, 0, 0, 1⟩) ∧ decodeSlot 5 0x05030000#32 = .ok (.cpy .c0 ⟨16, 12, 0, 0, 0⟩) ∧
  decodeSlot 6 0x25100001#32 = .ok (.drain .c1 ⟨17, 0, 0, 0, 1⟩) ∧ decodeSlot 7 0#32 = .ok (.nop ⟨0, 0, 0, 0, 0⟩)

/-- Every word of the opcode table: what the encoder writes for an instruction is read as that instruction in its slot, with every operand at every value, and no other instruction of the slot has that word. -/
def Obligations.EncodeDecode : Prop :=
  ∀ (i : Instr) (w : SlotWord), spellingOk i = true → encode i = some w →
    decodeSlot (slotIndex i) w = .ok i ∧ ∀ j, spellingOk j = true → slotIndex j = slotIndex i → encode j = some w → j = i

/-- R69, R77: a decoded word is the encoding of its instruction in its slot, bit for bit; an opcode beyond its slot's table decodes to nothing and every other one decodes. -/
def Obligations.DecodeIsExact : Prop :=
  ∀ (k : Nat) (w : SlotWord), 1 ≤ k → k ≤ 7 →
    let bound := if k = 1 then 0x30 else if k ≤ 3 then 0x2D else if k = 4 then 9 else if k ≤ 6 then 12 else 3
    (∀ i, decodeSlot k w = .ok i → encode i = some w ∧ spellingOk i = true ∧ (opOf w ≠ 0 → slotIndex i = k)) ∧
    (bound ≤ (opOf w).toNat → decodeSlot k w = .error (.reservedOpcode k (opOf w).toNat)) ∧
    ((opOf w).toNat < bound → ∃ i, decodeSlot k w = .ok i)

/-- R333, R339 and Tables 2.8, 4.14 and 5.2: after cold reset memory reads as zero, every core is idle at task level with PROF 2, no flag, no mode and nothing pending, and the ROM stage runs; that the registers without a stated reset value are zero is the model's choice (log 3), and so is that HBM4E and the CXL tier, which R339 does not zero, read as zero in the machine that the package comes as (log 4). -/
def Obligations.ResetState : Prop :=
  memInv State.reset ∧ coresInv State.reset ∧ (∀ a, State.reset.readByte a = 0) ∧ State.reset.stage = .rom ∧ State.reset.pcap = 1800 ∧
  State.reset.gstep = 0 ∧ ∀ p, let c := State.reset.core p
    c.run = .idle ∧ c.sup = false ∧ c.bown = 0 ∧ c.work.prof = 2 ∧ c.work.flags = 0 ∧ c.work.stat = 0 ∧ c.work.warn = 0 ∧ c.work.pend = [] ∧
    c.pending = none ∧ Safety.Core.reservedZero c = true ∧ (∀ k, c.work.readS k = 0) ∧ (∀ k, c.work.poisonS k = false)

/-- R123, R288: memory keeps its canonical form, addresses strictly rising and no byte of zero listed, in every step from every state, whichever event it takes. -/
def Obligations.MemoryKeepsItsForm : Prop :=
  ∀ s t : State, memInv s → step s = .next t → memInv t

/-- R61 to R63: a cell that has taken up to 4,032 products of magnitude at most 16,384 from zero holds their exact sum in its working residues, its count is their number, and its check residue agrees. -/
def Obligations.ResiduesAreExact : Prop :=
  ∀ ps : List Int, ps.length ≤ 4032 → (∀ p ∈ ps, p.natAbs ≤ 16384) →
    let c := ps.foldl Cell.residueStep Cell.zero
    c.value = ps.sum ∧ c.cnt.toNat = ps.length ∧ c.disagrees = false
end

