-- ==== Sys2Proof/Laws/Store.lean ====
section
/-! SUPPORT. Laws of sparse stores: a read after a write, and the canonical form, which every operation keeps. -/

namespace Sys2Proof.Machine

variable {α : Type}

@[simp] theorem Store.find?_nil (k : Nat) : Store.find? ([] : Store α) k = none := rfl

@[simp] theorem Store.get_nil (d : α) (k : Nat) : Store.get d [] k = d := rfl

/-- A key below a store's lower bound is not listed. -/
theorem Store.find?_below {m : Store α} {lo k : Nat} (h : Store.sortedFrom lo m = true) (hk : k < lo) :
    Store.find? m k = none := by
  cases m with
  | nil => rfl
  | cons x m =>
    obtain ⟨j, v⟩ := x
    simp only [Store.sortedFrom, Bool.and_eq_true, decide_eq_true_eq] at h
    simp only [Store.find?]
    rw [if_neg (by omega), if_pos (by omega)]

/-- The lower bound of a store may be lowered. -/
theorem Store.sortedFrom_mono {m : Store α} {lo lo' : Nat} (h : Store.sortedFrom lo m = true) (hk : lo' ≤ lo) :
    Store.sortedFrom lo' m = true := by
  cases m with
  | nil => rfl
  | cons x m =>
    simp only [Store.sortedFrom, Bool.and_eq_true, decide_eq_true_eq] at h ⊢
    exact ⟨by omega, h.2⟩

/-- The key just written holds the value written, in any store. -/
@[simp] theorem Store.find?_put_same (m : Store α) (k : Nat) (v : α) : Store.find? (Store.put m k v) k = some v := by
  induction m with
  | nil => simp [Store.put, Store.find?]
  | cons x m ih =>
    obtain ⟨j, w⟩ := x
    simp only [Store.put]
    split
    · simp [Store.find?]
    · split
      · simp [Store.find?]
      · simp only [Store.find?]
        rw [if_neg (by omega), if_neg (by omega)]
        exact ih

/-- A write leaves every other key alone. -/
theorem Store.find?_put_other {m : Store α} {k k' : Nat} (v : α) (hk : k' ≠ k) :
    Store.find? (Store.put m k v) k' = Store.find? m k' := by
  induction m with
  | nil => simp [Store.put, Store.find?, Ne.symm hk]
  | cons x m ih =>
    obtain ⟨j, w⟩ := x
    simp only [Store.put]
    split
    · simp only [Store.find?, if_neg (Ne.symm hk)]
      split
      · rw [if_neg (by omega), if_pos (by omega)]
      · rfl
    · split
      · subst_vars
        simp only [Store.find?, if_neg (Ne.symm hk)]
      · simp only [Store.find?, ih]

/-- Writing keeps the keys strictly rising. -/
theorem Store.sortedFrom_put {m : Store α} {lo k : Nat} (v : α) (h : Store.sortedFrom lo m = true) (hk : lo ≤ k) :
    Store.sortedFrom lo (Store.put m k v) = true := by
  induction m generalizing lo with
  | nil => simpa [Store.put, Store.sortedFrom] using hk
  | cons x m ih =>
    obtain ⟨j, w⟩ := x
    simp only [Store.sortedFrom, Bool.and_eq_true, decide_eq_true_eq] at h
    simp only [Store.put]
    split
    · simp only [Store.sortedFrom, Bool.and_eq_true, decide_eq_true_eq]
      exact ⟨hk, by omega, h.2⟩
    · split
      · subst_vars
        simp only [Store.sortedFrom, Bool.and_eq_true, decide_eq_true_eq]
        exact ⟨hk, h.2⟩
      · simp only [Store.sortedFrom, Bool.and_eq_true, decide_eq_true_eq]
        exact ⟨h.1, ih h.2 (by omega)⟩

/-- Removing an entry keeps the keys strictly rising. -/
theorem Store.sortedFrom_erase {m : Store α} {lo : Nat} (k : Nat) (h : Store.sortedFrom lo m = true) :
    Store.sortedFrom lo (Store.erase m k) = true := by
  induction m generalizing lo with
  | nil => rfl
  | cons x m ih =>
    obtain ⟨j, w⟩ := x
    have h' := h
    simp only [Store.sortedFrom, Bool.and_eq_true, decide_eq_true_eq] at h'
    simp only [Store.erase]
    split
    · exact h
    · split
      · exact Store.sortedFrom_mono h'.2 (by omega)
      · simp only [Store.sortedFrom, Bool.and_eq_true, decide_eq_true_eq]
        exact ⟨h'.1, ih h'.2⟩

/-- Selecting entries keeps the keys strictly rising. -/
theorem Store.sortedFrom_filter {m : Store α} {lo : Nat} (f : Nat × α → Bool) (h : Store.sortedFrom lo m = true) :
    Store.sortedFrom lo (m.filter f) = true := by
  induction m generalizing lo with
  | nil => rfl
  | cons x m ih =>
    obtain ⟨j, w⟩ := x
    simp only [Store.sortedFrom, Bool.and_eq_true, decide_eq_true_eq] at h
    simp only [List.filter]
    split
    · simp only [Store.sortedFrom, Bool.and_eq_true, decide_eq_true_eq]
      exact ⟨h.1, ih h.2⟩
    · exact ih (Store.sortedFrom_mono h.2 (by omega))

/-- Changing values keeps the keys strictly rising. -/
theorem Store.sortedFrom_mapVals {m : Store α} {lo : Nat} (f : Nat → α → α) (h : Store.sortedFrom lo m = true) :
    Store.sortedFrom lo (Store.mapVals f m) = true := by
  induction m generalizing lo with
  | nil => rfl
  | cons x m ih =>
    obtain ⟨j, w⟩ := x
    simp only [Store.sortedFrom, Bool.and_eq_true, decide_eq_true_eq] at h
    simp only [Store.mapVals, List.map_cons, Store.sortedFrom, Bool.and_eq_true, decide_eq_true_eq]
    exact ⟨h.1, ih h.2⟩

/-- A removed key is not listed. -/
theorem Store.find?_erase_same {m : Store α} {lo : Nat} (k : Nat) (h : Store.sortedFrom lo m = true) :
    Store.find? (Store.erase m k) k = none := by
  induction m generalizing lo with
  | nil => rfl
  | cons x m ih =>
    obtain ⟨j, w⟩ := x
    simp only [Store.sortedFrom, Bool.and_eq_true, decide_eq_true_eq] at h
    simp only [Store.erase]
    split
    · simp only [Store.find?]
      rw [if_neg (by omega), if_pos (by omega)]
    · split
      · exact Store.find?_below h.2 (by omega)
      · simp only [Store.find?]
        rw [if_neg (by omega), if_neg (by omega)]
        exact ih h.2

/-- Removing an entry leaves every other key alone. -/
theorem Store.find?_erase_other {m : Store α} {lo k k' : Nat} (h : Store.sortedFrom lo m = true) (hk : k' ≠ k) :
    Store.find? (Store.erase m k) k' = Store.find? m k' := by
  induction m generalizing lo with
  | nil => rfl
  | cons x m ih =>
    obtain ⟨j, w⟩ := x
    simp only [Store.sortedFrom, Bool.and_eq_true, decide_eq_true_eq] at h
    simp only [Store.erase]
    split
    · rfl
    · split
      · subst_vars
        simp only [Store.find?]
        rw [if_neg (by omega)]
        split
        · exact Store.find?_below h.2 (by omega)
        · rfl
      · simp only [Store.find?, ih h.2]

/-- The key just written reads as the value written. -/
@[simp] theorem Store.get_put_same (d : α) (m : Store α) (k : Nat) (v : α) : Store.get d (Store.put m k v) k = v := by
  simp [Store.get]

/-- A write leaves what every other key reads as. -/
theorem Store.get_put_other {m : Store α} (d : α) {k k' : Nat} (v : α) (hk : k' ≠ k) :
    Store.get d (Store.put m k v) k' = Store.get d m k' := by
  simp only [Store.get, Store.find?_put_other v hk]

/-- Removing an entry lists no new value. -/
theorem Store.mem_of_mem_erase {m : Store α} {k : Nat} {x : Nat × α} (h : x ∈ Store.erase m k) : x ∈ m := by
  induction m with
  | nil => exact h
  | cons y m ih =>
    obtain ⟨j, w⟩ := y
    simp only [Store.erase] at h
    split at h
    · exact h
    · split at h
      · exact List.mem_cons_of_mem _ h
      · rcases List.mem_cons.mp h with h | h
        · simp [h]
        · exact List.mem_cons_of_mem _ (ih h)

/-- Writing lists no new entry but the one written. -/
theorem Store.mem_of_mem_put {m : Store α} {k : Nat} {v : α} {x : Nat × α} (h : x ∈ Store.put m k v) :
    x = (k, v) ∨ x ∈ m := by
  induction m with
  | nil => left; simpa [Store.put] using h
  | cons y m ih =>
    obtain ⟨j, w⟩ := y
    simp only [Store.put] at h
    split at h
    · exact (List.mem_cons.mp h).imp id id
    · split at h
      · exact (List.mem_cons.mp h).imp id (List.mem_cons_of_mem _)
      · rcases List.mem_cons.mp h with h | h
        · right; simp [h]
        · exact (ih h).imp id (List.mem_cons_of_mem _)

section Canonical
variable [DecidableEq α]

/-- The key just set reads as the value set. -/
theorem Store.get_set_same {m : Store α} (d : α) (k : Nat) (v : α) (h : Store.sortedFrom 0 m = true) :
    Store.get d (Store.set d m k v) k = v := by
  unfold Store.set
  split
  · simp only [Store.get, Store.find?_erase_same k h]; subst_vars; rfl
  · simp

/-- Setting a key leaves what every other key reads as. -/
theorem Store.get_set_other {m : Store α} (d : α) {k k' : Nat} (v : α) (h : Store.sortedFrom 0 m = true) (hk : k' ≠ k) :
    Store.get d (Store.set d m k v) k' = Store.get d m k' := by
  unfold Store.set
  split
  · simp only [Store.get, Store.find?_erase_other h hk]
  · exact Store.get_put_other d v hk

/-- Setting a key keeps the canonical form. -/
theorem Store.wf_set {m : Store α} (d : α) (k : Nat) (v : α) (h : Store.wf d m = true) :
    Store.wf d (Store.set d m k v) = true := by
  simp only [Store.wf, Bool.and_eq_true, List.all_eq_true, decide_eq_true_eq] at h ⊢
  unfold Store.set
  split
  · exact ⟨Store.sortedFrom_erase k h.1, fun x hx => h.2 x (Store.mem_of_mem_erase hx)⟩
  · refine ⟨Store.sortedFrom_put v h.1 (Nat.zero_le _), fun x hx => ?_⟩
    rcases Store.mem_of_mem_put hx with rfl | hx
    · assumption
    · exact h.2 x hx

/-- Selecting entries keeps the canonical form. -/
theorem Store.wf_filter {m : Store α} (d : α) (f : Nat × α → Bool) (h : Store.wf d m = true) :
    Store.wf d (m.filter f) = true := by
  simp only [Store.wf, Bool.and_eq_true, List.all_eq_true, decide_eq_true_eq] at h ⊢
  exact ⟨Store.sortedFrom_filter f h.1, fun x hx => h.2 x (List.mem_filter.mp hx).1⟩

end Canonical

end Sys2Proof.Machine
end

