-- ==== Sys2Proof/Laws/State.lean ====
section
/-! SUPPORT. What the updates of the state, of a core and of its registers leave: one lemma a field, each by unfolding the update once. -/

namespace Sys2Proof.Machine

/-! ### A core replaced or changed: every other field of the state -/

@[simp] theorem State.setCore_cyc (s : State) (p : Nat) (c : Core) : (s.setCore p c).cyc = s.cyc := rfl
@[simp] theorem State.setCore_gstep (s : State) (p : Nat) (c : Core) : (s.setCore p c).gstep = s.gstep := rfl
@[simp] theorem State.setCore_tickEnd (s : State) (p : Nat) (c : Core) : (s.setCore p c).tickEnd = s.tickEnd := rfl
@[simp] theorem State.setCore_mem (s : State) (p : Nat) (c : Core) : (s.setCore p c).mem = s.mem := rfl
@[simp] theorem State.setCore_poisoned (s : State) (p : Nat) (c : Core) : (s.setCore p c).poisoned = s.poisoned := rfl
@[simp] theorem State.setCore_scrubbing (s : State) (p : Nat) (c : Core) : (s.setCore p c).scrubbing = s.scrubbing := rfl
@[simp] theorem State.setCore_cur (s : State) (p : Nat) (c : Core) : (s.setCore p c).cur = s.cur := rfl
@[simp] theorem State.setCore_images (s : State) (p : Nat) (c : Core) : (s.setCore p c).images = s.images := rfl
@[simp] theorem State.setCore_kicks (s : State) (p : Nat) (c : Core) : (s.setCore p c).kicks = s.kicks := rfl
@[simp] theorem State.setCore_queues (s : State) (p : Nat) (c : Core) : (s.setCore p c).queues = s.queues := rfl
@[simp] theorem State.setCore_groups (s : State) (p : Nat) (c : Core) : (s.setCore p c).groups = s.groups := rfl
@[simp] theorem State.setCore_tasks (s : State) (p : Nat) (c : Core) : (s.setCore p c).tasks = s.tasks := rfl
@[simp] theorem State.setCore_scheds (s : State) (p : Nat) (c : Core) : (s.setCore p c).scheds = s.scheds := rfl
@[simp] theorem State.setCore_rings (s : State) (p : Nat) (c : Core) : (s.setCore p c).rings = s.rings := rfl
@[simp] theorem State.setCore_msix (s : State) (p : Nat) (c : Core) : (s.setCore p c).msix = s.msix := rfl
@[simp] theorem State.setCore_dead (s : State) (p : Nat) (c : Core) : (s.setCore p c).dead = s.dead := rfl
@[simp] theorem State.setCore_svecs (s : State) (p : Nat) (c : Core) : (s.setCore p c).svecs = s.svecs := rfl
@[simp] theorem State.setCore_modes (s : State) (p : Nat) (c : Core) : (s.setCore p c).modes = s.modes := rfl
@[simp] theorem State.setCore_queueCtx (s : State) (p : Nat) (c : Core) : (s.setCore p c).queueCtx = s.queueCtx := rfl
@[simp] theorem State.setCore_extras (s : State) (p : Nat) (c : Core) : (s.setCore p c).extras = s.extras := rfl
@[simp] theorem State.setCore_acts (s : State) (p : Nat) (c : Core) : (s.setCore p c).acts = s.acts := rfl
@[simp] theorem State.setCore_records (s : State) (p : Nat) (c : Core) : (s.setCore p c).records = s.records := rfl
@[simp] theorem State.setCore_nextSeq (s : State) (p : Nat) (c : Core) : (s.setCore p c).nextSeq = s.nextSeq := rfl
@[simp] theorem State.setCore_nextMerge (s : State) (p : Nat) (c : Core) : (s.setCore p c).nextMerge = s.nextMerge := rfl
@[simp] theorem State.setCore_heldReports (s : State) (p : Nat) (c : Core) : (s.setCore p c).heldReports = s.heldReports := rfl
@[simp] theorem State.setCore_ops (s : State) (p : Nat) (c : Core) : (s.setCore p c).ops = s.ops := rfl
@[simp] theorem State.setCore_nextOp (s : State) (p : Nat) (c : Core) : (s.setCore p c).nextOp = s.nextOp := rfl
@[simp] theorem State.setCore_redGroups (s : State) (p : Nat) (c : Core) : (s.setCore p c).redGroups = s.redGroups := rfl
@[simp] theorem State.setCore_channels (s : State) (p : Nat) (c : Core) : (s.setCore p c).channels = s.channels := rfl
@[simp] theorem State.setCore_reqs (s : State) (p : Nat) (c : Core) : (s.setCore p c).reqs = s.reqs := rfl
@[simp] theorem State.setCore_nextReq (s : State) (p : Nat) (c : Core) : (s.setCore p c).nextReq = s.nextReq := rfl
@[simp] theorem State.setCore_nextVal (s : State) (p : Nat) (c : Core) : (s.setCore p c).nextVal = s.nextVal := rfl
@[simp] theorem State.setCore_srcSeq (s : State) (p : Nat) (c : Core) : (s.setCore p c).srcSeq = s.srcSeq := rfl
@[simp] theorem State.setCore_window (s : State) (p : Nat) (c : Core) : (s.setCore p c).window = s.window := rfl
@[simp] theorem State.setCore_waits (s : State) (p : Nat) (c : Core) : (s.setCore p c).waits = s.waits := rfl
@[simp] theorem State.setCore_heldArrivals (s : State) (p : Nat) (c : Core) : (s.setCore p c).heldArrivals = s.heldArrivals := rfl
@[simp] theorem State.setCore_heldInputs (s : State) (p : Nat) (c : Core) : (s.setCore p c).heldInputs = s.heldInputs := rfl
@[simp] theorem State.setCore_ctbase (s : State) (p : Nat) (c : Core) : (s.setCore p c).ctbase = s.ctbase := rfl
@[simp] theorem State.setCore_supSegs (s : State) (p : Nat) (c : Core) : (s.setCore p c).supSegs = s.supSegs := rfl
@[simp] theorem State.setCore_engSegs (s : State) (p : Nat) (c : Core) : (s.setCore p c).engSegs = s.engSegs := rfl
@[simp] theorem State.setCore_engRoots (s : State) (p : Nat) (c : Core) : (s.setCore p c).engRoots = s.engRoots := rfl
@[simp] theorem State.setCore_tlb (s : State) (p : Nat) (c : Core) : (s.setCore p c).tlb = s.tlb := rfl
@[simp] theorem State.setCore_walks (s : State) (p : Nat) (c : Core) : (s.setCore p c).walks = s.walks := rfl
@[simp] theorem State.setCore_shootdowns (s : State) (p : Nat) (c : Core) : (s.setCore p c).shootdowns = s.shootdowns := rfl
@[simp] theorem State.setCore_regions (s : State) (p : Nat) (c : Core) : (s.setCore p c).regions = s.regions := rfl
@[simp] theorem State.setCore_ringHeads (s : State) (p : Nat) (c : Core) : (s.setCore p c).ringHeads = s.ringHeads := rfl
@[simp] theorem State.setCore_faults (s : State) (p : Nat) (c : Core) : (s.setCore p c).faults = s.faults := rfl
@[simp] theorem State.setCore_fto (s : State) (p : Nat) (c : Core) : (s.setCore p c).fto = s.fto := rfl
@[simp] theorem State.setCore_pools (s : State) (p : Nat) (c : Core) : (s.setCore p c).pools = s.pools := rfl
@[simp] theorem State.setCore_moves (s : State) (p : Nat) (c : Core) : (s.setCore p c).moves = s.moves := rfl
@[simp] theorem State.setCore_zeroBlocks (s : State) (p : Nat) (c : Core) : (s.setCore p c).zeroBlocks = s.zeroBlocks := rfl
@[simp] theorem State.setCore_cxlSize (s : State) (p : Nat) (c : Core) : (s.setCore p c).cxlSize = s.cxlSize := rfl
@[simp] theorem State.setCore_tiers (s : State) (p : Nat) (c : Core) : (s.setCore p c).tiers = s.tiers := rfl
@[simp] theorem State.setCore_links (s : State) (p : Nat) (c : Core) : (s.setCore p c).links = s.links := rfl
@[simp] theorem State.setCore_quarantine (s : State) (p : Nat) (c : Core) : (s.setCore p c).quarantine = s.quarantine := rfl
@[simp] theorem State.setCore_leftAt (s : State) (p : Nat) (c : Core) : (s.setCore p c).leftAt = s.leftAt := rfl
@[simp] theorem State.setCore_deferred (s : State) (p : Nat) (c : Core) : (s.setCore p c).deferred = s.deferred := rfl
@[simp] theorem State.setCore_life (s : State) (p : Nat) (c : Core) : (s.setCore p c).life = s.life := rfl
@[simp] theorem State.setCore_counters (s : State) (p : Nat) (c : Core) : (s.setCore p c).counters = s.counters := rfl
@[simp] theorem State.setCore_stage (s : State) (p : Nat) (c : Core) : (s.setCore p c).stage = s.stage := rfl
@[simp] theorem State.setCore_failing (s : State) (p : Nat) (c : Core) : (s.setCore p c).failing = s.failing := rfl
@[simp] theorem State.setCore_mailboxOpen (s : State) (p : Nat) (c : Core) : (s.setCore p c).mailboxOpen = s.mailboxOpen := rfl
@[simp] theorem State.setCore_chip (s : State) (p : Nat) (c : Core) : (s.setCore p c).chip = s.chip := rfl
@[simp] theorem State.setCore_domain (s : State) (p : Nat) (c : Core) : (s.setCore p c).domain = s.domain := rfl
@[simp] theorem State.setCore_hostmask (s : State) (p : Nat) (c : Core) : (s.setCore p c).hostmask = s.hostmask := rfl
@[simp] theorem State.setCore_hostPorts (s : State) (p : Nat) (c : Core) : (s.setCore p c).hostPorts = s.hostPorts := rfl
@[simp] theorem State.setCore_failedDevices (s : State) (p : Nat) (c : Core) : (s.setCore p c).failedDevices = s.failedDevices := rfl
@[simp] theorem State.setCore_parts (s : State) (p : Nat) (c : Core) : (s.setCore p c).parts = s.parts := rfl
@[simp] theorem State.setCore_m0 (s : State) (p : Nat) (c : Core) : (s.setCore p c).m0 = s.m0 := rfl
@[simp] theorem State.setCore_m1 (s : State) (p : Nat) (c : Core) : (s.setCore p c).m1 = s.m1 := rfl
@[simp] theorem State.setCore_m2 (s : State) (p : Nat) (c : Core) : (s.setCore p c).m2 = s.m2 := rfl
@[simp] theorem State.setCore_pcap (s : State) (p : Nat) (c : Core) : (s.setCore p c).pcap = s.pcap := rfl
@[simp] theorem State.setCore_stretch (s : State) (p : Nat) (c : Core) : (s.setCore p c).stretch = s.stretch := rfl
@[simp] theorem State.setCore_agenda (s : State) (p : Nat) (c : Core) : (s.setCore p c).agenda = s.agenda := rfl
@[simp] theorem State.setCore_free (s : State) (p : Nat) (c : Core) : (s.setCore p c).free = s.free := rfl
@[simp] theorem State.setCore_outbox (s : State) (p : Nat) (c : Core) : (s.setCore p c).outbox = s.outbox := rfl

@[simp] theorem State.onCore_cyc (s : State) (p : Nat) (f : Core → Core) : (s.onCore p f).cyc = s.cyc := rfl
@[simp] theorem State.onCore_gstep (s : State) (p : Nat) (f : Core → Core) : (s.onCore p f).gstep = s.gstep := rfl
@[simp] theorem State.onCore_tickEnd (s : State) (p : Nat) (f : Core → Core) : (s.onCore p f).tickEnd = s.tickEnd := rfl
@[simp] theorem State.onCore_mem (s : State) (p : Nat) (f : Core → Core) : (s.onCore p f).mem = s.mem := rfl
@[simp] theorem State.onCore_poisoned (s : State) (p : Nat) (f : Core → Core) : (s.onCore p f).poisoned = s.poisoned := rfl
@[simp] theorem State.onCore_scrubbing (s : State) (p : Nat) (f : Core → Core) : (s.onCore p f).scrubbing = s.scrubbing := rfl
@[simp] theorem State.onCore_cur (s : State) (p : Nat) (f : Core → Core) : (s.onCore p f).cur = s.cur := rfl
@[simp] theorem State.onCore_images (s : State) (p : Nat) (f : Core → Core) : (s.onCore p f).images = s.images := rfl
@[simp] theorem State.onCore_kicks (s : State) (p : Nat) (f : Core → Core) : (s.onCore p f).kicks = s.kicks := rfl
@[simp] theorem State.onCore_queues (s : State) (p : Nat) (f : Core → Core) : (s.onCore p f).queues = s.queues := rfl
@[simp] theorem State.onCore_groups (s : State) (p : Nat) (f : Core → Core) : (s.onCore p f).groups = s.groups := rfl
@[simp] theorem State.onCore_tasks (s : State) (p : Nat) (f : Core → Core) : (s.onCore p f).tasks = s.tasks := rfl
@[simp] theorem State.onCore_scheds (s : State) (p : Nat) (f : Core → Core) : (s.onCore p f).scheds = s.scheds := rfl
@[simp] theorem State.onCore_rings (s : State) (p : Nat) (f : Core → Core) : (s.onCore p f).rings = s.rings := rfl
@[simp] theorem State.onCore_msix (s : State) (p : Nat) (f : Core → Core) : (s.onCore p f).msix = s.msix := rfl
@[simp] theorem State.onCore_dead (s : State) (p : Nat) (f : Core → Core) : (s.onCore p f).dead = s.dead := rfl
@[simp] theorem State.onCore_svecs (s : State) (p : Nat) (f : Core → Core) : (s.onCore p f).svecs = s.svecs := rfl
@[simp] theorem State.onCore_modes (s : State) (p : Nat) (f : Core → Core) : (s.onCore p f).modes = s.modes := rfl
@[simp] theorem State.onCore_queueCtx (s : State) (p : Nat) (f : Core → Core) : (s.onCore p f).queueCtx = s.queueCtx := rfl
@[simp] theorem State.onCore_extras (s : State) (p : Nat) (f : Core → Core) : (s.onCore p f).extras = s.extras := rfl
@[simp] theorem State.onCore_acts (s : State) (p : Nat) (f : Core → Core) : (s.onCore p f).acts = s.acts := rfl
@[simp] theorem State.onCore_records (s : State) (p : Nat) (f : Core → Core) : (s.onCore p f).records = s.records := rfl
@[simp] theorem State.onCore_nextSeq (s : State) (p : Nat) (f : Core → Core) : (s.onCore p f).nextSeq = s.nextSeq := rfl
@[simp] theorem State.onCore_nextMerge (s : State) (p : Nat) (f : Core → Core) : (s.onCore p f).nextMerge = s.nextMerge := rfl
@[simp] theorem State.onCore_heldReports (s : State) (p : Nat) (f : Core → Core) : (s.onCore p f).heldReports = s.heldReports := rfl
@[simp] theorem State.onCore_ops (s : State) (p : Nat) (f : Core → Core) : (s.onCore p f).ops = s.ops := rfl
@[simp] theorem State.onCore_nextOp (s : State) (p : Nat) (f : Core → Core) : (s.onCore p f).nextOp = s.nextOp := rfl
@[simp] theorem State.onCore_redGroups (s : State) (p : Nat) (f : Core → Core) : (s.onCore p f).redGroups = s.redGroups := rfl
@[simp] theorem State.onCore_channels (s : State) (p : Nat) (f : Core → Core) : (s.onCore p f).channels = s.channels := rfl
@[simp] theorem State.onCore_reqs (s : State) (p : Nat) (f : Core → Core) : (s.onCore p f).reqs = s.reqs := rfl
@[simp] theorem State.onCore_nextReq (s : State) (p : Nat) (f : Core → Core) : (s.onCore p f).nextReq = s.nextReq := rfl
@[simp] theorem State.onCore_nextVal (s : State) (p : Nat) (f : Core → Core) : (s.onCore p f).nextVal = s.nextVal := rfl
@[simp] theorem State.onCore_srcSeq (s : State) (p : Nat) (f : Core → Core) : (s.onCore p f).srcSeq = s.srcSeq := rfl
@[simp] theorem State.onCore_window (s : State) (p : Nat) (f : Core → Core) : (s.onCore p f).window = s.window := rfl
@[simp] theorem State.onCore_waits (s : State) (p : Nat) (f : Core → Core) : (s.onCore p f).waits = s.waits := rfl
@[simp] theorem State.onCore_heldArrivals (s : State) (p : Nat) (f : Core → Core) : (s.onCore p f).heldArrivals = s.heldArrivals := rfl
@[simp] theorem State.onCore_heldInputs (s : State) (p : Nat) (f : Core → Core) : (s.onCore p f).heldInputs = s.heldInputs := rfl
@[simp] theorem State.onCore_ctbase (s : State) (p : Nat) (f : Core → Core) : (s.onCore p f).ctbase = s.ctbase := rfl
@[simp] theorem State.onCore_supSegs (s : State) (p : Nat) (f : Core → Core) : (s.onCore p f).supSegs = s.supSegs := rfl
@[simp] theorem State.onCore_engSegs (s : State) (p : Nat) (f : Core → Core) : (s.onCore p f).engSegs = s.engSegs := rfl
@[simp] theorem State.onCore_engRoots (s : State) (p : Nat) (f : Core → Core) : (s.onCore p f).engRoots = s.engRoots := rfl
@[simp] theorem State.onCore_tlb (s : State) (p : Nat) (f : Core → Core) : (s.onCore p f).tlb = s.tlb := rfl
@[simp] theorem State.onCore_walks (s : State) (p : Nat) (f : Core → Core) : (s.onCore p f).walks = s.walks := rfl
@[simp] theorem State.onCore_shootdowns (s : State) (p : Nat) (f : Core → Core) : (s.onCore p f).shootdowns = s.shootdowns := rfl
@[simp] theorem State.onCore_regions (s : State) (p : Nat) (f : Core → Core) : (s.onCore p f).regions = s.regions := rfl
@[simp] theorem State.onCore_ringHeads (s : State) (p : Nat) (f : Core → Core) : (s.onCore p f).ringHeads = s.ringHeads := rfl
@[simp] theorem State.onCore_faults (s : State) (p : Nat) (f : Core → Core) : (s.onCore p f).faults = s.faults := rfl
@[simp] theorem State.onCore_fto (s : State) (p : Nat) (f : Core → Core) : (s.onCore p f).fto = s.fto := rfl
@[simp] theorem State.onCore_pools (s : State) (p : Nat) (f : Core → Core) : (s.onCore p f).pools = s.pools := rfl
@[simp] theorem State.onCore_moves (s : State) (p : Nat) (f : Core → Core) : (s.onCore p f).moves = s.moves := rfl
@[simp] theorem State.onCore_zeroBlocks (s : State) (p : Nat) (f : Core → Core) : (s.onCore p f).zeroBlocks = s.zeroBlocks := rfl
@[simp] theorem State.onCore_cxlSize (s : State) (p : Nat) (f : Core → Core) : (s.onCore p f).cxlSize = s.cxlSize := rfl
@[simp] theorem State.onCore_tiers (s : State) (p : Nat) (f : Core → Core) : (s.onCore p f).tiers = s.tiers := rfl
@[simp] theorem State.onCore_links (s : State) (p : Nat) (f : Core → Core) : (s.onCore p f).links = s.links := rfl
@[simp] theorem State.onCore_quarantine (s : State) (p : Nat) (f : Core → Core) : (s.onCore p f).quarantine = s.quarantine := rfl
@[simp] theorem State.onCore_leftAt (s : State) (p : Nat) (f : Core → Core) : (s.onCore p f).leftAt = s.leftAt := rfl
@[simp] theorem State.onCore_deferred (s : State) (p : Nat) (f : Core → Core) : (s.onCore p f).deferred = s.deferred := rfl
@[simp] theorem State.onCore_life (s : State) (p : Nat) (f : Core → Core) : (s.onCore p f).life = s.life := rfl
@[simp] theorem State.onCore_counters (s : State) (p : Nat) (f : Core → Core) : (s.onCore p f).counters = s.counters := rfl
@[simp] theorem State.onCore_stage (s : State) (p : Nat) (f : Core → Core) : (s.onCore p f).stage = s.stage := rfl
@[simp] theorem State.onCore_failing (s : State) (p : Nat) (f : Core → Core) : (s.onCore p f).failing = s.failing := rfl
@[simp] theorem State.onCore_mailboxOpen (s : State) (p : Nat) (f : Core → Core) : (s.onCore p f).mailboxOpen = s.mailboxOpen := rfl
@[simp] theorem State.onCore_chip (s : State) (p : Nat) (f : Core → Core) : (s.onCore p f).chip = s.chip := rfl
@[simp] theorem State.onCore_domain (s : State) (p : Nat) (f : Core → Core) : (s.onCore p f).domain = s.domain := rfl
@[simp] theorem State.onCore_hostmask (s : State) (p : Nat) (f : Core → Core) : (s.onCore p f).hostmask = s.hostmask := rfl
@[simp] theorem State.onCore_hostPorts (s : State) (p : Nat) (f : Core → Core) : (s.onCore p f).hostPorts = s.hostPorts := rfl
@[simp] theorem State.onCore_failedDevices (s : State) (p : Nat) (f : Core → Core) : (s.onCore p f).failedDevices = s.failedDevices := rfl
@[simp] theorem State.onCore_parts (s : State) (p : Nat) (f : Core → Core) : (s.onCore p f).parts = s.parts := rfl
@[simp] theorem State.onCore_m0 (s : State) (p : Nat) (f : Core → Core) : (s.onCore p f).m0 = s.m0 := rfl
@[simp] theorem State.onCore_m1 (s : State) (p : Nat) (f : Core → Core) : (s.onCore p f).m1 = s.m1 := rfl
@[simp] theorem State.onCore_m2 (s : State) (p : Nat) (f : Core → Core) : (s.onCore p f).m2 = s.m2 := rfl
@[simp] theorem State.onCore_pcap (s : State) (p : Nat) (f : Core → Core) : (s.onCore p f).pcap = s.pcap := rfl
@[simp] theorem State.onCore_stretch (s : State) (p : Nat) (f : Core → Core) : (s.onCore p f).stretch = s.stretch := rfl
@[simp] theorem State.onCore_agenda (s : State) (p : Nat) (f : Core → Core) : (s.onCore p f).agenda = s.agenda := rfl
@[simp] theorem State.onCore_free (s : State) (p : Nat) (f : Core → Core) : (s.onCore p f).free = s.free := rfl
@[simp] theorem State.onCore_outbox (s : State) (p : Nat) (f : Core → Core) : (s.onCore p f).outbox = s.outbox := rfl

/-! ### Bytes written -/

@[simp] theorem State.writeBytes_cyc (s : State) (bs : List (Nat × Byte)) : (s.writeBytes bs).cyc = s.cyc := rfl
@[simp] theorem State.writeBytes_gstep (s : State) (bs : List (Nat × Byte)) : (s.writeBytes bs).gstep = s.gstep := rfl
@[simp] theorem State.writeBytes_tickEnd (s : State) (bs : List (Nat × Byte)) : (s.writeBytes bs).tickEnd = s.tickEnd := rfl
@[simp] theorem State.writeBytes_scrubbing (s : State) (bs : List (Nat × Byte)) : (s.writeBytes bs).scrubbing = s.scrubbing := rfl
@[simp] theorem State.writeBytes_cores (s : State) (bs : List (Nat × Byte)) : (s.writeBytes bs).cores = s.cores := rfl
@[simp] theorem State.writeBytes_cur (s : State) (bs : List (Nat × Byte)) : (s.writeBytes bs).cur = s.cur := rfl
@[simp] theorem State.writeBytes_images (s : State) (bs : List (Nat × Byte)) : (s.writeBytes bs).images = s.images := rfl
@[simp] theorem State.writeBytes_kicks (s : State) (bs : List (Nat × Byte)) : (s.writeBytes bs).kicks = s.kicks := rfl
@[simp] theorem State.writeBytes_queues (s : State) (bs : List (Nat × Byte)) : (s.writeBytes bs).queues = s.queues := rfl
@[simp] theorem State.writeBytes_groups (s : State) (bs : List (Nat × Byte)) : (s.writeBytes bs).groups = s.groups := rfl
@[simp] theorem State.writeBytes_tasks (s : State) (bs : List (Nat × Byte)) : (s.writeBytes bs).tasks = s.tasks := rfl
@[simp] theorem State.writeBytes_scheds (s : State) (bs : List (Nat × Byte)) : (s.writeBytes bs).scheds = s.scheds := rfl
@[simp] theorem State.writeBytes_rings (s : State) (bs : List (Nat × Byte)) : (s.writeBytes bs).rings = s.rings := rfl
@[simp] theorem State.writeBytes_msix (s : State) (bs : List (Nat × Byte)) : (s.writeBytes bs).msix = s.msix := rfl
@[simp] theorem State.writeBytes_dead (s : State) (bs : List (Nat × Byte)) : (s.writeBytes bs).dead = s.dead := rfl
@[simp] theorem State.writeBytes_svecs (s : State) (bs : List (Nat × Byte)) : (s.writeBytes bs).svecs = s.svecs := rfl
@[simp] theorem State.writeBytes_modes (s : State) (bs : List (Nat × Byte)) : (s.writeBytes bs).modes = s.modes := rfl
@[simp] theorem State.writeBytes_queueCtx (s : State) (bs : List (Nat × Byte)) : (s.writeBytes bs).queueCtx = s.queueCtx := rfl
@[simp] theorem State.writeBytes_extras (s : State) (bs : List (Nat × Byte)) : (s.writeBytes bs).extras = s.extras := rfl
@[simp] theorem State.writeBytes_acts (s : State) (bs : List (Nat × Byte)) : (s.writeBytes bs).acts = s.acts := rfl
@[simp] theorem State.writeBytes_records (s : State) (bs : List (Nat × Byte)) : (s.writeBytes bs).records = s.records := rfl
@[simp] theorem State.writeBytes_nextSeq (s : State) (bs : List (Nat × Byte)) : (s.writeBytes bs).nextSeq = s.nextSeq := rfl
@[simp] theorem State.writeBytes_nextMerge (s : State) (bs : List (Nat × Byte)) : (s.writeBytes bs).nextMerge = s.nextMerge := rfl
@[simp] theorem State.writeBytes_heldReports (s : State) (bs : List (Nat × Byte)) : (s.writeBytes bs).heldReports = s.heldReports := rfl
@[simp] theorem State.writeBytes_ops (s : State) (bs : List (Nat × Byte)) : (s.writeBytes bs).ops = s.ops := rfl
@[simp] theorem State.writeBytes_nextOp (s : State) (bs : List (Nat × Byte)) : (s.writeBytes bs).nextOp = s.nextOp := rfl
@[simp] theorem State.writeBytes_redGroups (s : State) (bs : List (Nat × Byte)) : (s.writeBytes bs).redGroups = s.redGroups := rfl
@[simp] theorem State.writeBytes_channels (s : State) (bs : List (Nat × Byte)) : (s.writeBytes bs).channels = s.channels := rfl
@[simp] theorem State.writeBytes_reqs (s : State) (bs : List (Nat × Byte)) : (s.writeBytes bs).reqs = s.reqs := rfl
@[simp] theorem State.writeBytes_nextReq (s : State) (bs : List (Nat × Byte)) : (s.writeBytes bs).nextReq = s.nextReq := rfl
@[simp] theorem State.writeBytes_nextVal (s : State) (bs : List (Nat × Byte)) : (s.writeBytes bs).nextVal = s.nextVal := rfl
@[simp] theorem State.writeBytes_srcSeq (s : State) (bs : List (Nat × Byte)) : (s.writeBytes bs).srcSeq = s.srcSeq := rfl
@[simp] theorem State.writeBytes_window (s : State) (bs : List (Nat × Byte)) : (s.writeBytes bs).window = s.window := rfl
@[simp] theorem State.writeBytes_waits (s : State) (bs : List (Nat × Byte)) : (s.writeBytes bs).waits = s.waits := rfl
@[simp] theorem State.writeBytes_heldArrivals (s : State) (bs : List (Nat × Byte)) : (s.writeBytes bs).heldArrivals = s.heldArrivals := rfl
@[simp] theorem State.writeBytes_heldInputs (s : State) (bs : List (Nat × Byte)) : (s.writeBytes bs).heldInputs = s.heldInputs := rfl
@[simp] theorem State.writeBytes_ctbase (s : State) (bs : List (Nat × Byte)) : (s.writeBytes bs).ctbase = s.ctbase := rfl
@[simp] theorem State.writeBytes_supSegs (s : State) (bs : List (Nat × Byte)) : (s.writeBytes bs).supSegs = s.supSegs := rfl
@[simp] theorem State.writeBytes_engSegs (s : State) (bs : List (Nat × Byte)) : (s.writeBytes bs).engSegs = s.engSegs := rfl
@[simp] theorem State.writeBytes_engRoots (s : State) (bs : List (Nat × Byte)) : (s.writeBytes bs).engRoots = s.engRoots := rfl
@[simp] theorem State.writeBytes_tlb (s : State) (bs : List (Nat × Byte)) : (s.writeBytes bs).tlb = s.tlb := rfl
@[simp] theorem State.writeBytes_walks (s : State) (bs : List (Nat × Byte)) : (s.writeBytes bs).walks = s.walks := rfl
@[simp] theorem State.writeBytes_shootdowns (s : State) (bs : List (Nat × Byte)) : (s.writeBytes bs).shootdowns = s.shootdowns := rfl
@[simp] theorem State.writeBytes_regions (s : State) (bs : List (Nat × Byte)) : (s.writeBytes bs).regions = s.regions := rfl
@[simp] theorem State.writeBytes_ringHeads (s : State) (bs : List (Nat × Byte)) : (s.writeBytes bs).ringHeads = s.ringHeads := rfl
@[simp] theorem State.writeBytes_faults (s : State) (bs : List (Nat × Byte)) : (s.writeBytes bs).faults = s.faults := rfl
@[simp] theorem State.writeBytes_fto (s : State) (bs : List (Nat × Byte)) : (s.writeBytes bs).fto = s.fto := rfl
@[simp] theorem State.writeBytes_pools (s : State) (bs : List (Nat × Byte)) : (s.writeBytes bs).pools = s.pools := rfl
@[simp] theorem State.writeBytes_moves (s : State) (bs : List (Nat × Byte)) : (s.writeBytes bs).moves = s.moves := rfl
@[simp] theorem State.writeBytes_cxlSize (s : State) (bs : List (Nat × Byte)) : (s.writeBytes bs).cxlSize = s.cxlSize := rfl
@[simp] theorem State.writeBytes_tiers (s : State) (bs : List (Nat × Byte)) : (s.writeBytes bs).tiers = s.tiers := rfl
@[simp] theorem State.writeBytes_links (s : State) (bs : List (Nat × Byte)) : (s.writeBytes bs).links = s.links := rfl
@[simp] theorem State.writeBytes_quarantine (s : State) (bs : List (Nat × Byte)) : (s.writeBytes bs).quarantine = s.quarantine := rfl
@[simp] theorem State.writeBytes_leftAt (s : State) (bs : List (Nat × Byte)) : (s.writeBytes bs).leftAt = s.leftAt := rfl
@[simp] theorem State.writeBytes_deferred (s : State) (bs : List (Nat × Byte)) : (s.writeBytes bs).deferred = s.deferred := rfl
@[simp] theorem State.writeBytes_life (s : State) (bs : List (Nat × Byte)) : (s.writeBytes bs).life = s.life := rfl
@[simp] theorem State.writeBytes_counters (s : State) (bs : List (Nat × Byte)) : (s.writeBytes bs).counters = s.counters := rfl
@[simp] theorem State.writeBytes_stage (s : State) (bs : List (Nat × Byte)) : (s.writeBytes bs).stage = s.stage := rfl
@[simp] theorem State.writeBytes_failing (s : State) (bs : List (Nat × Byte)) : (s.writeBytes bs).failing = s.failing := rfl
@[simp] theorem State.writeBytes_mailboxOpen (s : State) (bs : List (Nat × Byte)) : (s.writeBytes bs).mailboxOpen = s.mailboxOpen := rfl
@[simp] theorem State.writeBytes_chip (s : State) (bs : List (Nat × Byte)) : (s.writeBytes bs).chip = s.chip := rfl
@[simp] theorem State.writeBytes_domain (s : State) (bs : List (Nat × Byte)) : (s.writeBytes bs).domain = s.domain := rfl
@[simp] theorem State.writeBytes_hostmask (s : State) (bs : List (Nat × Byte)) : (s.writeBytes bs).hostmask = s.hostmask := rfl
@[simp] theorem State.writeBytes_hostPorts (s : State) (bs : List (Nat × Byte)) : (s.writeBytes bs).hostPorts = s.hostPorts := rfl
@[simp] theorem State.writeBytes_failedDevices (s : State) (bs : List (Nat × Byte)) : (s.writeBytes bs).failedDevices = s.failedDevices := rfl
@[simp] theorem State.writeBytes_parts (s : State) (bs : List (Nat × Byte)) : (s.writeBytes bs).parts = s.parts := rfl
@[simp] theorem State.writeBytes_m0 (s : State) (bs : List (Nat × Byte)) : (s.writeBytes bs).m0 = s.m0 := rfl
@[simp] theorem State.writeBytes_m1 (s : State) (bs : List (Nat × Byte)) : (s.writeBytes bs).m1 = s.m1 := rfl
@[simp] theorem State.writeBytes_m2 (s : State) (bs : List (Nat × Byte)) : (s.writeBytes bs).m2 = s.m2 := rfl
@[simp] theorem State.writeBytes_pcap (s : State) (bs : List (Nat × Byte)) : (s.writeBytes bs).pcap = s.pcap := rfl
@[simp] theorem State.writeBytes_stretch (s : State) (bs : List (Nat × Byte)) : (s.writeBytes bs).stretch = s.stretch := rfl
@[simp] theorem State.writeBytes_agenda (s : State) (bs : List (Nat × Byte)) : (s.writeBytes bs).agenda = s.agenda := rfl
@[simp] theorem State.writeBytes_free (s : State) (bs : List (Nat × Byte)) : (s.writeBytes bs).free = s.free := rfl
@[simp] theorem State.writeBytes_outbox (s : State) (bs : List (Nat × Byte)) : (s.writeBytes bs).outbox = s.outbox := rfl

@[simp] theorem State.writeNat_cyc (s : State) (loc n v : Nat) : (s.writeNat loc n v).cyc = s.cyc := rfl
@[simp] theorem State.writeNat_gstep (s : State) (loc n v : Nat) : (s.writeNat loc n v).gstep = s.gstep := rfl
@[simp] theorem State.writeNat_tickEnd (s : State) (loc n v : Nat) : (s.writeNat loc n v).tickEnd = s.tickEnd := rfl
@[simp] theorem State.writeNat_scrubbing (s : State) (loc n v : Nat) : (s.writeNat loc n v).scrubbing = s.scrubbing := rfl
@[simp] theorem State.writeNat_cores (s : State) (loc n v : Nat) : (s.writeNat loc n v).cores = s.cores := rfl
@[simp] theorem State.writeNat_cur (s : State) (loc n v : Nat) : (s.writeNat loc n v).cur = s.cur := rfl
@[simp] theorem State.writeNat_images (s : State) (loc n v : Nat) : (s.writeNat loc n v).images = s.images := rfl
@[simp] theorem State.writeNat_kicks (s : State) (loc n v : Nat) : (s.writeNat loc n v).kicks = s.kicks := rfl
@[simp] theorem State.writeNat_queues (s : State) (loc n v : Nat) : (s.writeNat loc n v).queues = s.queues := rfl
@[simp] theorem State.writeNat_groups (s : State) (loc n v : Nat) : (s.writeNat loc n v).groups = s.groups := rfl
@[simp] theorem State.writeNat_tasks (s : State) (loc n v : Nat) : (s.writeNat loc n v).tasks = s.tasks := rfl
@[simp] theorem State.writeNat_scheds (s : State) (loc n v : Nat) : (s.writeNat loc n v).scheds = s.scheds := rfl
@[simp] theorem State.writeNat_rings (s : State) (loc n v : Nat) : (s.writeNat loc n v).rings = s.rings := rfl
@[simp] theorem State.writeNat_msix (s : State) (loc n v : Nat) : (s.writeNat loc n v).msix = s.msix := rfl
@[simp] theorem State.writeNat_dead (s : State) (loc n v : Nat) : (s.writeNat loc n v).dead = s.dead := rfl
@[simp] theorem State.writeNat_svecs (s : State) (loc n v : Nat) : (s.writeNat loc n v).svecs = s.svecs := rfl
@[simp] theorem State.writeNat_modes (s : State) (loc n v : Nat) : (s.writeNat loc n v).modes = s.modes := rfl
@[simp] theorem State.writeNat_queueCtx (s : State) (loc n v : Nat) : (s.writeNat loc n v).queueCtx = s.queueCtx := rfl
@[simp] theorem State.writeNat_extras (s : State) (loc n v : Nat) : (s.writeNat loc n v).extras = s.extras := rfl
@[simp] theorem State.writeNat_acts (s : State) (loc n v : Nat) : (s.writeNat loc n v).acts = s.acts := rfl
@[simp] theorem State.writeNat_records (s : State) (loc n v : Nat) : (s.writeNat loc n v).records = s.records := rfl
@[simp] theorem State.writeNat_nextSeq (s : State) (loc n v : Nat) : (s.writeNat loc n v).nextSeq = s.nextSeq := rfl
@[simp] theorem State.writeNat_nextMerge (s : State) (loc n v : Nat) : (s.writeNat loc n v).nextMerge = s.nextMerge := rfl
@[simp] theorem State.writeNat_heldReports (s : State) (loc n v : Nat) : (s.writeNat loc n v).heldReports = s.heldReports := rfl
@[simp] theorem State.writeNat_ops (s : State) (loc n v : Nat) : (s.writeNat loc n v).ops = s.ops := rfl
@[simp] theorem State.writeNat_nextOp (s : State) (loc n v : Nat) : (s.writeNat loc n v).nextOp = s.nextOp := rfl
@[simp] theorem State.writeNat_redGroups (s : State) (loc n v : Nat) : (s.writeNat loc n v).redGroups = s.redGroups := rfl
@[simp] theorem State.writeNat_channels (s : State) (loc n v : Nat) : (s.writeNat loc n v).channels = s.channels := rfl
@[simp] theorem State.writeNat_reqs (s : State) (loc n v : Nat) : (s.writeNat loc n v).reqs = s.reqs := rfl
@[simp] theorem State.writeNat_nextReq (s : State) (loc n v : Nat) : (s.writeNat loc n v).nextReq = s.nextReq := rfl
@[simp] theorem State.writeNat_nextVal (s : State) (loc n v : Nat) : (s.writeNat loc n v).nextVal = s.nextVal := rfl
@[simp] theorem State.writeNat_srcSeq (s : State) (loc n v : Nat) : (s.writeNat loc n v).srcSeq = s.srcSeq := rfl
@[simp] theorem State.writeNat_window (s : State) (loc n v : Nat) : (s.writeNat loc n v).window = s.window := rfl
@[simp] theorem State.writeNat_waits (s : State) (loc n v : Nat) : (s.writeNat loc n v).waits = s.waits := rfl
@[simp] theorem State.writeNat_heldArrivals (s : State) (loc n v : Nat) : (s.writeNat loc n v).heldArrivals = s.heldArrivals := rfl
@[simp] theorem State.writeNat_heldInputs (s : State) (loc n v : Nat) : (s.writeNat loc n v).heldInputs = s.heldInputs := rfl
@[simp] theorem State.writeNat_ctbase (s : State) (loc n v : Nat) : (s.writeNat loc n v).ctbase = s.ctbase := rfl
@[simp] theorem State.writeNat_supSegs (s : State) (loc n v : Nat) : (s.writeNat loc n v).supSegs = s.supSegs := rfl
@[simp] theorem State.writeNat_engSegs (s : State) (loc n v : Nat) : (s.writeNat loc n v).engSegs = s.engSegs := rfl
@[simp] theorem State.writeNat_engRoots (s : State) (loc n v : Nat) : (s.writeNat loc n v).engRoots = s.engRoots := rfl
@[simp] theorem State.writeNat_tlb (s : State) (loc n v : Nat) : (s.writeNat loc n v).tlb = s.tlb := rfl
@[simp] theorem State.writeNat_walks (s : State) (loc n v : Nat) : (s.writeNat loc n v).walks = s.walks := rfl
@[simp] theorem State.writeNat_shootdowns (s : State) (loc n v : Nat) : (s.writeNat loc n v).shootdowns = s.shootdowns := rfl
@[simp] theorem State.writeNat_regions (s : State) (loc n v : Nat) : (s.writeNat loc n v).regions = s.regions := rfl
@[simp] theorem State.writeNat_ringHeads (s : State) (loc n v : Nat) : (s.writeNat loc n v).ringHeads = s.ringHeads := rfl
@[simp] theorem State.writeNat_faults (s : State) (loc n v : Nat) : (s.writeNat loc n v).faults = s.faults := rfl
@[simp] theorem State.writeNat_fto (s : State) (loc n v : Nat) : (s.writeNat loc n v).fto = s.fto := rfl
@[simp] theorem State.writeNat_pools (s : State) (loc n v : Nat) : (s.writeNat loc n v).pools = s.pools := rfl
@[simp] theorem State.writeNat_moves (s : State) (loc n v : Nat) : (s.writeNat loc n v).moves = s.moves := rfl
@[simp] theorem State.writeNat_cxlSize (s : State) (loc n v : Nat) : (s.writeNat loc n v).cxlSize = s.cxlSize := rfl
@[simp] theorem State.writeNat_tiers (s : State) (loc n v : Nat) : (s.writeNat loc n v).tiers = s.tiers := rfl
@[simp] theorem State.writeNat_links (s : State) (loc n v : Nat) : (s.writeNat loc n v).links = s.links := rfl
@[simp] theorem State.writeNat_quarantine (s : State) (loc n v : Nat) : (s.writeNat loc n v).quarantine = s.quarantine := rfl
@[simp] theorem State.writeNat_leftAt (s : State) (loc n v : Nat) : (s.writeNat loc n v).leftAt = s.leftAt := rfl
@[simp] theorem State.writeNat_deferred (s : State) (loc n v : Nat) : (s.writeNat loc n v).deferred = s.deferred := rfl
@[simp] theorem State.writeNat_life (s : State) (loc n v : Nat) : (s.writeNat loc n v).life = s.life := rfl
@[simp] theorem State.writeNat_counters (s : State) (loc n v : Nat) : (s.writeNat loc n v).counters = s.counters := rfl
@[simp] theorem State.writeNat_stage (s : State) (loc n v : Nat) : (s.writeNat loc n v).stage = s.stage := rfl
@[simp] theorem State.writeNat_failing (s : State) (loc n v : Nat) : (s.writeNat loc n v).failing = s.failing := rfl
@[simp] theorem State.writeNat_mailboxOpen (s : State) (loc n v : Nat) : (s.writeNat loc n v).mailboxOpen = s.mailboxOpen := rfl
@[simp] theorem State.writeNat_chip (s : State) (loc n v : Nat) : (s.writeNat loc n v).chip = s.chip := rfl
@[simp] theorem State.writeNat_domain (s : State) (loc n v : Nat) : (s.writeNat loc n v).domain = s.domain := rfl
@[simp] theorem State.writeNat_hostmask (s : State) (loc n v : Nat) : (s.writeNat loc n v).hostmask = s.hostmask := rfl
@[simp] theorem State.writeNat_hostPorts (s : State) (loc n v : Nat) : (s.writeNat loc n v).hostPorts = s.hostPorts := rfl
@[simp] theorem State.writeNat_failedDevices (s : State) (loc n v : Nat) : (s.writeNat loc n v).failedDevices = s.failedDevices := rfl
@[simp] theorem State.writeNat_parts (s : State) (loc n v : Nat) : (s.writeNat loc n v).parts = s.parts := rfl
@[simp] theorem State.writeNat_m0 (s : State) (loc n v : Nat) : (s.writeNat loc n v).m0 = s.m0 := rfl
@[simp] theorem State.writeNat_m1 (s : State) (loc n v : Nat) : (s.writeNat loc n v).m1 = s.m1 := rfl
@[simp] theorem State.writeNat_m2 (s : State) (loc n v : Nat) : (s.writeNat loc n v).m2 = s.m2 := rfl
@[simp] theorem State.writeNat_pcap (s : State) (loc n v : Nat) : (s.writeNat loc n v).pcap = s.pcap := rfl
@[simp] theorem State.writeNat_stretch (s : State) (loc n v : Nat) : (s.writeNat loc n v).stretch = s.stretch := rfl
@[simp] theorem State.writeNat_agenda (s : State) (loc n v : Nat) : (s.writeNat loc n v).agenda = s.agenda := rfl
@[simp] theorem State.writeNat_free (s : State) (loc n v : Nat) : (s.writeNat loc n v).free = s.free := rfl
@[simp] theorem State.writeNat_outbox (s : State) (loc n v : Nat) : (s.writeNat loc n v).outbox = s.outbox := rfl

/-! ### A counter raised -/

@[simp] theorem countLife_cyc (s : State) (die k n : Nat) : (countLife s die k n).cyc = s.cyc := rfl
@[simp] theorem countLife_gstep (s : State) (die k n : Nat) : (countLife s die k n).gstep = s.gstep := rfl
@[simp] theorem countLife_tickEnd (s : State) (die k n : Nat) : (countLife s die k n).tickEnd = s.tickEnd := rfl
@[simp] theorem countLife_mem (s : State) (die k n : Nat) : (countLife s die k n).mem = s.mem := rfl
@[simp] theorem countLife_poisoned (s : State) (die k n : Nat) : (countLife s die k n).poisoned = s.poisoned := rfl
@[simp] theorem countLife_scrubbing (s : State) (die k n : Nat) : (countLife s die k n).scrubbing = s.scrubbing := rfl
@[simp] theorem countLife_cores (s : State) (die k n : Nat) : (countLife s die k n).cores = s.cores := rfl
@[simp] theorem countLife_cur (s : State) (die k n : Nat) : (countLife s die k n).cur = s.cur := rfl
@[simp] theorem countLife_images (s : State) (die k n : Nat) : (countLife s die k n).images = s.images := rfl
@[simp] theorem countLife_kicks (s : State) (die k n : Nat) : (countLife s die k n).kicks = s.kicks := rfl
@[simp] theorem countLife_queues (s : State) (die k n : Nat) : (countLife s die k n).queues = s.queues := rfl
@[simp] theorem countLife_groups (s : State) (die k n : Nat) : (countLife s die k n).groups = s.groups := rfl
@[simp] theorem countLife_tasks (s : State) (die k n : Nat) : (countLife s die k n).tasks = s.tasks := rfl
@[simp] theorem countLife_scheds (s : State) (die k n : Nat) : (countLife s die k n).scheds = s.scheds := rfl
@[simp] theorem countLife_rings (s : State) (die k n : Nat) : (countLife s die k n).rings = s.rings := rfl
@[simp] theorem countLife_msix (s : State) (die k n : Nat) : (countLife s die k n).msix = s.msix := rfl
@[simp] theorem countLife_dead (s : State) (die k n : Nat) : (countLife s die k n).dead = s.dead := rfl
@[simp] theorem countLife_svecs (s : State) (die k n : Nat) : (countLife s die k n).svecs = s.svecs := rfl
@[simp] theorem countLife_modes (s : State) (die k n : Nat) : (countLife s die k n).modes = s.modes := rfl
@[simp] theorem countLife_queueCtx (s : State) (die k n : Nat) : (countLife s die k n).queueCtx = s.queueCtx := rfl
@[simp] theorem countLife_extras (s : State) (die k n : Nat) : (countLife s die k n).extras = s.extras := rfl
@[simp] theorem countLife_acts (s : State) (die k n : Nat) : (countLife s die k n).acts = s.acts := rfl
@[simp] theorem countLife_records (s : State) (die k n : Nat) : (countLife s die k n).records = s.records := rfl
@[simp] theorem countLife_nextSeq (s : State) (die k n : Nat) : (countLife s die k n).nextSeq = s.nextSeq := rfl
@[simp] theorem countLife_nextMerge (s : State) (die k n : Nat) : (countLife s die k n).nextMerge = s.nextMerge := rfl
@[simp] theorem countLife_heldReports (s : State) (die k n : Nat) : (countLife s die k n).heldReports = s.heldReports := rfl
@[simp] theorem countLife_ops (s : State) (die k n : Nat) : (countLife s die k n).ops = s.ops := rfl
@[simp] theorem countLife_nextOp (s : State) (die k n : Nat) : (countLife s die k n).nextOp = s.nextOp := rfl
@[simp] theorem countLife_redGroups (s : State) (die k n : Nat) : (countLife s die k n).redGroups = s.redGroups := rfl
@[simp] theorem countLife_channels (s : State) (die k n : Nat) : (countLife s die k n).channels = s.channels := rfl
@[simp] theorem countLife_reqs (s : State) (die k n : Nat) : (countLife s die k n).reqs = s.reqs := rfl
@[simp] theorem countLife_nextReq (s : State) (die k n : Nat) : (countLife s die k n).nextReq = s.nextReq := rfl
@[simp] theorem countLife_nextVal (s : State) (die k n : Nat) : (countLife s die k n).nextVal = s.nextVal := rfl
@[simp] theorem countLife_srcSeq (s : State) (die k n : Nat) : (countLife s die k n).srcSeq = s.srcSeq := rfl
@[simp] theorem countLife_window (s : State) (die k n : Nat) : (countLife s die k n).window = s.window := rfl
@[simp] theorem countLife_waits (s : State) (die k n : Nat) : (countLife s die k n).waits = s.waits := rfl
@[simp] theorem countLife_heldArrivals (s : State) (die k n : Nat) : (countLife s die k n).heldArrivals = s.heldArrivals := rfl
@[simp] theorem countLife_heldInputs (s : State) (die k n : Nat) : (countLife s die k n).heldInputs = s.heldInputs := rfl
@[simp] theorem countLife_ctbase (s : State) (die k n : Nat) : (countLife s die k n).ctbase = s.ctbase := rfl
@[simp] theorem countLife_supSegs (s : State) (die k n : Nat) : (countLife s die k n).supSegs = s.supSegs := rfl
@[simp] theorem countLife_engSegs (s : State) (die k n : Nat) : (countLife s die k n).engSegs = s.engSegs := rfl
@[simp] theorem countLife_engRoots (s : State) (die k n : Nat) : (countLife s die k n).engRoots = s.engRoots := rfl
@[simp] theorem countLife_tlb (s : State) (die k n : Nat) : (countLife s die k n).tlb = s.tlb := rfl
@[simp] theorem countLife_walks (s : State) (die k n : Nat) : (countLife s die k n).walks = s.walks := rfl
@[simp] theorem countLife_shootdowns (s : State) (die k n : Nat) : (countLife s die k n).shootdowns = s.shootdowns := rfl
@[simp] theorem countLife_regions (s : State) (die k n : Nat) : (countLife s die k n).regions = s.regions := rfl
@[simp] theorem countLife_ringHeads (s : State) (die k n : Nat) : (countLife s die k n).ringHeads = s.ringHeads := rfl
@[simp] theorem countLife_faults (s : State) (die k n : Nat) : (countLife s die k n).faults = s.faults := rfl
@[simp] theorem countLife_fto (s : State) (die k n : Nat) : (countLife s die k n).fto = s.fto := rfl
@[simp] theorem countLife_pools (s : State) (die k n : Nat) : (countLife s die k n).pools = s.pools := rfl
@[simp] theorem countLife_moves (s : State) (die k n : Nat) : (countLife s die k n).moves = s.moves := rfl
@[simp] theorem countLife_zeroBlocks (s : State) (die k n : Nat) : (countLife s die k n).zeroBlocks = s.zeroBlocks := rfl
@[simp] theorem countLife_cxlSize (s : State) (die k n : Nat) : (countLife s die k n).cxlSize = s.cxlSize := rfl
@[simp] theorem countLife_tiers (s : State) (die k n : Nat) : (countLife s die k n).tiers = s.tiers := rfl
@[simp] theorem countLife_links (s : State) (die k n : Nat) : (countLife s die k n).links = s.links := rfl
@[simp] theorem countLife_quarantine (s : State) (die k n : Nat) : (countLife s die k n).quarantine = s.quarantine := rfl
@[simp] theorem countLife_leftAt (s : State) (die k n : Nat) : (countLife s die k n).leftAt = s.leftAt := rfl
@[simp] theorem countLife_deferred (s : State) (die k n : Nat) : (countLife s die k n).deferred = s.deferred := rfl
@[simp] theorem countLife_counters (s : State) (die k n : Nat) : (countLife s die k n).counters = s.counters := rfl
@[simp] theorem countLife_stage (s : State) (die k n : Nat) : (countLife s die k n).stage = s.stage := rfl
@[simp] theorem countLife_failing (s : State) (die k n : Nat) : (countLife s die k n).failing = s.failing := rfl
@[simp] theorem countLife_mailboxOpen (s : State) (die k n : Nat) : (countLife s die k n).mailboxOpen = s.mailboxOpen := rfl
@[simp] theorem countLife_chip (s : State) (die k n : Nat) : (countLife s die k n).chip = s.chip := rfl
@[simp] theorem countLife_domain (s : State) (die k n : Nat) : (countLife s die k n).domain = s.domain := rfl
@[simp] theorem countLife_hostmask (s : State) (die k n : Nat) : (countLife s die k n).hostmask = s.hostmask := rfl
@[simp] theorem countLife_hostPorts (s : State) (die k n : Nat) : (countLife s die k n).hostPorts = s.hostPorts := rfl
@[simp] theorem countLife_failedDevices (s : State) (die k n : Nat) : (countLife s die k n).failedDevices = s.failedDevices := rfl
@[simp] theorem countLife_parts (s : State) (die k n : Nat) : (countLife s die k n).parts = s.parts := rfl
@[simp] theorem countLife_m0 (s : State) (die k n : Nat) : (countLife s die k n).m0 = s.m0 := rfl
@[simp] theorem countLife_m1 (s : State) (die k n : Nat) : (countLife s die k n).m1 = s.m1 := rfl
@[simp] theorem countLife_m2 (s : State) (die k n : Nat) : (countLife s die k n).m2 = s.m2 := rfl
@[simp] theorem countLife_pcap (s : State) (die k n : Nat) : (countLife s die k n).pcap = s.pcap := rfl
@[simp] theorem countLife_stretch (s : State) (die k n : Nat) : (countLife s die k n).stretch = s.stretch := rfl
@[simp] theorem countLife_agenda (s : State) (die k n : Nat) : (countLife s die k n).agenda = s.agenda := rfl
@[simp] theorem countLife_free (s : State) (die k n : Nat) : (countLife s die k n).free = s.free := rfl
@[simp] theorem countLife_outbox (s : State) (die k n : Nat) : (countLife s die k n).outbox = s.outbox := rfl

@[simp] theorem countDie_cyc (s : State) (die k : Nat) : (countDie s die k).cyc = s.cyc := rfl
@[simp] theorem countDie_gstep (s : State) (die k : Nat) : (countDie s die k).gstep = s.gstep := rfl
@[simp] theorem countDie_tickEnd (s : State) (die k : Nat) : (countDie s die k).tickEnd = s.tickEnd := rfl
@[simp] theorem countDie_mem (s : State) (die k : Nat) : (countDie s die k).mem = s.mem := rfl
@[simp] theorem countDie_poisoned (s : State) (die k : Nat) : (countDie s die k).poisoned = s.poisoned := rfl
@[simp] theorem countDie_scrubbing (s : State) (die k : Nat) : (countDie s die k).scrubbing = s.scrubbing := rfl
@[simp] theorem countDie_cores (s : State) (die k : Nat) : (countDie s die k).cores = s.cores := rfl
@[simp] theorem countDie_cur (s : State) (die k : Nat) : (countDie s die k).cur = s.cur := rfl
@[simp] theorem countDie_images (s : State) (die k : Nat) : (countDie s die k).images = s.images := rfl
@[simp] theorem countDie_kicks (s : State) (die k : Nat) : (countDie s die k).kicks = s.kicks := rfl
@[simp] theorem countDie_queues (s : State) (die k : Nat) : (countDie s die k).queues = s.queues := rfl
@[simp] theorem countDie_groups (s : State) (die k : Nat) : (countDie s die k).groups = s.groups := rfl
@[simp] theorem countDie_tasks (s : State) (die k : Nat) : (countDie s die k).tasks = s.tasks := rfl
@[simp] theorem countDie_scheds (s : State) (die k : Nat) : (countDie s die k).scheds = s.scheds := rfl
@[simp] theorem countDie_rings (s : State) (die k : Nat) : (countDie s die k).rings = s.rings := rfl
@[simp] theorem countDie_msix (s : State) (die k : Nat) : (countDie s die k).msix = s.msix := rfl
@[simp] theorem countDie_dead (s : State) (die k : Nat) : (countDie s die k).dead = s.dead := rfl
@[simp] theorem countDie_svecs (s : State) (die k : Nat) : (countDie s die k).svecs = s.svecs := rfl
@[simp] theorem countDie_modes (s : State) (die k : Nat) : (countDie s die k).modes = s.modes := rfl
@[simp] theorem countDie_queueCtx (s : State) (die k : Nat) : (countDie s die k).queueCtx = s.queueCtx := rfl
@[simp] theorem countDie_extras (s : State) (die k : Nat) : (countDie s die k).extras = s.extras := rfl
@[simp] theorem countDie_acts (s : State) (die k : Nat) : (countDie s die k).acts = s.acts := rfl
@[simp] theorem countDie_records (s : State) (die k : Nat) : (countDie s die k).records = s.records := rfl
@[simp] theorem countDie_nextSeq (s : State) (die k : Nat) : (countDie s die k).nextSeq = s.nextSeq := rfl
@[simp] theorem countDie_nextMerge (s : State) (die k : Nat) : (countDie s die k).nextMerge = s.nextMerge := rfl
@[simp] theorem countDie_heldReports (s : State) (die k : Nat) : (countDie s die k).heldReports = s.heldReports := rfl
@[simp] theorem countDie_ops (s : State) (die k : Nat) : (countDie s die k).ops = s.ops := rfl
@[simp] theorem countDie_nextOp (s : State) (die k : Nat) : (countDie s die k).nextOp = s.nextOp := rfl
@[simp] theorem countDie_redGroups (s : State) (die k : Nat) : (countDie s die k).redGroups = s.redGroups := rfl
@[simp] theorem countDie_channels (s : State) (die k : Nat) : (countDie s die k).channels = s.channels := rfl
@[simp] theorem countDie_reqs (s : State) (die k : Nat) : (countDie s die k).reqs = s.reqs := rfl
@[simp] theorem countDie_nextReq (s : State) (die k : Nat) : (countDie s die k).nextReq = s.nextReq := rfl
@[simp] theorem countDie_nextVal (s : State) (die k : Nat) : (countDie s die k).nextVal = s.nextVal := rfl
@[simp] theorem countDie_srcSeq (s : State) (die k : Nat) : (countDie s die k).srcSeq = s.srcSeq := rfl
@[simp] theorem countDie_window (s : State) (die k : Nat) : (countDie s die k).window = s.window := rfl
@[simp] theorem countDie_waits (s : State) (die k : Nat) : (countDie s die k).waits = s.waits := rfl
@[simp] theorem countDie_heldArrivals (s : State) (die k : Nat) : (countDie s die k).heldArrivals = s.heldArrivals := rfl
@[simp] theorem countDie_heldInputs (s : State) (die k : Nat) : (countDie s die k).heldInputs = s.heldInputs := rfl
@[simp] theorem countDie_ctbase (s : State) (die k : Nat) : (countDie s die k).ctbase = s.ctbase := rfl
@[simp] theorem countDie_supSegs (s : State) (die k : Nat) : (countDie s die k).supSegs = s.supSegs := rfl
@[simp] theorem countDie_engSegs (s : State) (die k : Nat) : (countDie s die k).engSegs = s.engSegs := rfl
@[simp] theorem countDie_engRoots (s : State) (die k : Nat) : (countDie s die k).engRoots = s.engRoots := rfl
@[simp] theorem countDie_tlb (s : State) (die k : Nat) : (countDie s die k).tlb = s.tlb := rfl
@[simp] theorem countDie_walks (s : State) (die k : Nat) : (countDie s die k).walks = s.walks := rfl
@[simp] theorem countDie_shootdowns (s : State) (die k : Nat) : (countDie s die k).shootdowns = s.shootdowns := rfl
@[simp] theorem countDie_regions (s : State) (die k : Nat) : (countDie s die k).regions = s.regions := rfl
@[simp] theorem countDie_ringHeads (s : State) (die k : Nat) : (countDie s die k).ringHeads = s.ringHeads := rfl
@[simp] theorem countDie_faults (s : State) (die k : Nat) : (countDie s die k).faults = s.faults := rfl
@[simp] theorem countDie_fto (s : State) (die k : Nat) : (countDie s die k).fto = s.fto := rfl
@[simp] theorem countDie_pools (s : State) (die k : Nat) : (countDie s die k).pools = s.pools := rfl
@[simp] theorem countDie_moves (s : State) (die k : Nat) : (countDie s die k).moves = s.moves := rfl
@[simp] theorem countDie_zeroBlocks (s : State) (die k : Nat) : (countDie s die k).zeroBlocks = s.zeroBlocks := rfl
@[simp] theorem countDie_cxlSize (s : State) (die k : Nat) : (countDie s die k).cxlSize = s.cxlSize := rfl
@[simp] theorem countDie_tiers (s : State) (die k : Nat) : (countDie s die k).tiers = s.tiers := rfl
@[simp] theorem countDie_links (s : State) (die k : Nat) : (countDie s die k).links = s.links := rfl
@[simp] theorem countDie_quarantine (s : State) (die k : Nat) : (countDie s die k).quarantine = s.quarantine := rfl
@[simp] theorem countDie_leftAt (s : State) (die k : Nat) : (countDie s die k).leftAt = s.leftAt := rfl
@[simp] theorem countDie_deferred (s : State) (die k : Nat) : (countDie s die k).deferred = s.deferred := rfl
@[simp] theorem countDie_life (s : State) (die k : Nat) : (countDie s die k).life = s.life := rfl
@[simp] theorem countDie_stage (s : State) (die k : Nat) : (countDie s die k).stage = s.stage := rfl
@[simp] theorem countDie_failing (s : State) (die k : Nat) : (countDie s die k).failing = s.failing := rfl
@[simp] theorem countDie_mailboxOpen (s : State) (die k : Nat) : (countDie s die k).mailboxOpen = s.mailboxOpen := rfl
@[simp] theorem countDie_chip (s : State) (die k : Nat) : (countDie s die k).chip = s.chip := rfl
@[simp] theorem countDie_domain (s : State) (die k : Nat) : (countDie s die k).domain = s.domain := rfl
@[simp] theorem countDie_hostmask (s : State) (die k : Nat) : (countDie s die k).hostmask = s.hostmask := rfl
@[simp] theorem countDie_hostPorts (s : State) (die k : Nat) : (countDie s die k).hostPorts = s.hostPorts := rfl
@[simp] theorem countDie_failedDevices (s : State) (die k : Nat) : (countDie s die k).failedDevices = s.failedDevices := rfl
@[simp] theorem countDie_parts (s : State) (die k : Nat) : (countDie s die k).parts = s.parts := rfl
@[simp] theorem countDie_m0 (s : State) (die k : Nat) : (countDie s die k).m0 = s.m0 := rfl
@[simp] theorem countDie_m1 (s : State) (die k : Nat) : (countDie s die k).m1 = s.m1 := rfl
@[simp] theorem countDie_m2 (s : State) (die k : Nat) : (countDie s die k).m2 = s.m2 := rfl
@[simp] theorem countDie_pcap (s : State) (die k : Nat) : (countDie s die k).pcap = s.pcap := rfl
@[simp] theorem countDie_stretch (s : State) (die k : Nat) : (countDie s die k).stretch = s.stretch := rfl
@[simp] theorem countDie_agenda (s : State) (die k : Nat) : (countDie s die k).agenda = s.agenda := rfl
@[simp] theorem countDie_free (s : State) (die k : Nat) : (countDie s die k).free = s.free := rfl
@[simp] theorem countDie_outbox (s : State) (die k : Nat) : (countDie s die k).outbox = s.outbox := rfl

/-! ### A pending write added, and the trap registers written: every other field of the core -/

@[simp] theorem Core.addPend_mark (c : Core) (q : Pending) : (c.addPend q).mark = c.mark := rfl
@[simp] theorem Core.addPend_com (c : Core) (q : Pending) : (c.addPend q).com = c.com := rfl
@[simp] theorem Core.addPend_run (c : Core) (q : Pending) : (c.addPend q).run = c.run := rfl
@[simp] theorem Core.addPend_bown (c : Core) (q : Pending) : (c.addPend q).bown = c.bown := rfl
@[simp] theorem Core.addPend_tcause (c : Core) (q : Pending) : (c.addPend q).tcause = c.tcause := rfl
@[simp] theorem Core.addPend_tpc (c : Core) (q : Pending) : (c.addPend q).tpc = c.tpc := rfl
@[simp] theorem Core.addPend_tinfo (c : Core) (q : Pending) : (c.addPend q).tinfo = c.tinfo := rfl
@[simp] theorem Core.addPend_sup (c : Core) (q : Pending) : (c.addPend q).sup = c.sup := rfl
@[simp] theorem Core.addPend_bke (c : Core) (q : Pending) : (c.addPend q).bke = c.bke := rfl
@[simp] theorem Core.addPend_sstep (c : Core) (q : Pending) : (c.addPend q).sstep = c.sstep := rfl
@[simp] theorem Core.addPend_hzd (c : Core) (q : Pending) : (c.addPend q).hzd = c.hzd := rfl
@[simp] theorem Core.addPend_svec (c : Core) (q : Pending) : (c.addPend q).svec = c.svec := rfl
@[simp] theorem Core.addPend_save (c : Core) (q : Pending) : (c.addPend q).save = c.save := rfl
@[simp] theorem Core.addPend_areas (c : Core) (q : Pending) : (c.addPend q).areas = c.areas := rfl
@[simp] theorem Core.addPend_ctx (c : Core) (q : Pending) : (c.addPend q).ctx = c.ctx := rfl
@[simp] theorem Core.addPend_lcore (c : Core) (q : Pending) : (c.addPend q).lcore = c.lcore := rfl
@[simp] theorem Core.addPend_image (c : Core) (q : Pending) : (c.addPend q).image = c.image := rfl
@[simp] theorem Core.addPend_queue (c : Core) (q : Pending) : (c.addPend q).queue = c.queue := rfl
@[simp] theorem Core.addPend_seg (c : Core) (q : Pending) : (c.addPend q).seg = c.seg := rfl
@[simp] theorem Core.addPend_pending (c : Core) (q : Pending) : (c.addPend q).pending = c.pending := rfl
@[simp] theorem Core.addPend_tiles (c : Core) (q : Pending) : (c.addPend q).tiles = c.tiles := rfl
@[simp] theorem Core.addPend_opaq (c : Core) (q : Pending) : (c.addPend q).opaq = c.opaq := rfl
@[simp] theorem Core.addPend_heldStores (c : Core) (q : Pending) : (c.addPend q).heldStores = c.heldStores := rfl
@[simp] theorem Core.addPend_pressAt (c : Core) (q : Pending) : (c.addPend q).pressAt = c.pressAt := rfl
@[simp] theorem Core.addPend_applied (c : Core) (q : Pending) : (c.addPend q).applied = c.applied := rfl
@[simp] theorem Core.addPend_reads (c : Core) (q : Pending) : (c.addPend q).reads = c.reads := rfl
@[simp] theorem Core.addPend_standIn (c : Core) (q : Pending) : (c.addPend q).standIn = c.standIn := rfl
@[simp] theorem Core.addPend_failRec (c : Core) (q : Pending) : (c.addPend q).failRec = c.failRec := rfl
@[simp] theorem Core.addPend_badRec (c : Core) (q : Pending) : (c.addPend q).badRec = c.badRec := rfl
@[simp] theorem Core.addPend_rolls (c : Core) (q : Pending) : (c.addPend q).rolls = c.rolls := rfl
@[simp] theorem Core.addPend_comAt (c : Core) (q : Pending) : (c.addPend q).comAt = c.comAt := rfl
@[simp] theorem Core.addPend_restarting (c : Core) (q : Pending) : (c.addPend q).restarting = c.restarting := rfl
@[simp] theorem Core.addPend_holdUntil (c : Core) (q : Pending) : (c.addPend q).holdUntil = c.holdUntil := rfl
@[simp] theorem Core.addPend_sync (c : Core) (q : Pending) : (c.addPend q).sync = c.sync := rfl
@[simp] theorem Core.addPend_async (c : Core) (q : Pending) : (c.addPend q).async = c.async := rfl
@[simp] theorem Core.addPend_preempt (c : Core) (q : Pending) : (c.addPend q).preempt = c.preempt := rfl
@[simp] theorem Core.addPend_saveKind (c : Core) (q : Pending) : (c.addPend q).saveKind = c.saveKind := rfl
@[simp] theorem Core.addPend_bskip (c : Core) (q : Pending) : (c.addPend q).bskip = c.bskip := rfl
@[simp] theorem Core.addPend_breakNow (c : Core) (q : Pending) : (c.addPend q).breakNow = c.breakNow := rfl
@[simp] theorem Core.addPend_value (c : Core) (q : Pending) : (c.addPend q).value = c.value := rfl
@[simp] theorem Core.addPend_heldValue (c : Core) (q : Pending) : (c.addPend q).heldValue = c.heldValue := rfl
@[simp] theorem Core.addPend_valueBack (c : Core) (q : Pending) : (c.addPend q).valueBack = c.valueBack := rfl
@[simp] theorem Core.addPend_grafts (c : Core) (q : Pending) : (c.addPend q).grafts = c.grafts := rfl
@[simp] theorem Core.addPend_inserts (c : Core) (q : Pending) : (c.addPend q).inserts = c.inserts := rfl
@[simp] theorem Core.addPend_comp (c : Core) (q : Pending) : (c.addPend q).comp = c.comp := rfl
@[simp] theorem Core.addPend_reserved (c : Core) (q : Pending) : (c.addPend q).reserved = c.reserved := rfl
@[simp] theorem Core.addPend_lx (c : Core) (q : Pending) : (c.addPend q).lx = c.lx := rfl
@[simp] theorem Core.addPend_lit (c : Core) (q : Pending) : (c.addPend q).lit = c.lit := rfl
@[simp] theorem Core.addPend_srUsed (c : Core) (q : Pending) : (c.addPend q).srUsed = c.srUsed := rfl
@[simp] theorem Core.addPend_markAfter (c : Core) (q : Pending) : (c.addPend q).markAfter = c.markAfter := rfl
@[simp] theorem Core.addPend_skipTo (c : Core) (q : Pending) : (c.addPend q).skipTo = c.skipTo := rfl
@[simp] theorem Core.addPend_enter (c : Core) (q : Pending) : (c.addPend q).enter = c.enter := rfl
@[simp] theorem Core.addPend_callQ (c : Core) (q : Pending) : (c.addPend q).callQ = c.callQ := rfl
@[simp] theorem Core.addPend_repAt (c : Core) (q : Pending) : (c.addPend q).repAt = c.repAt := rfl
@[simp] theorem Core.addPend_merged (c : Core) (q : Pending) : (c.addPend q).merged = c.merged := rfl
@[simp] theorem Core.addPend_flagAt (c : Core) (q : Pending) : (c.addPend q).flagAt = c.flagAt := rfl
@[simp] theorem Core.addPend_flagHit (c : Core) (q : Pending) : (c.addPend q).flagHit = c.flagHit := rfl
@[simp] theorem Core.addPend_flagNew (c : Core) (q : Pending) : (c.addPend q).flagNew = c.flagNew := rfl
@[simp] theorem Core.addPend_turnAt (c : Core) (q : Pending) : (c.addPend q).turnAt = c.turnAt := rfl
@[simp] theorem Core.addPend_dropped (c : Core) (q : Pending) : (c.addPend q).dropped = c.dropped := rfl
@[simp] theorem Core.addPend_issued (c : Core) (q : Pending) : (c.addPend q).issued = c.issued := rfl
@[simp] theorem Core.addPend_overran (c : Core) (q : Pending) : (c.addPend q).overran = c.overran := rfl
@[simp] theorem Core.addPend_overAt (c : Core) (q : Pending) : (c.addPend q).overAt = c.overAt := rfl
@[simp] theorem Core.addPend_stated (c : Core) (q : Pending) : (c.addPend q).stated = c.stated := rfl
@[simp] theorem Core.addPend_yields (c : Core) (q : Pending) : (c.addPend q).yields = c.yields := rfl
@[simp] theorem Core.addPend_brels (c : Core) (q : Pending) : (c.addPend q).brels = c.brels := rfl
@[simp] theorem Core.addPend_lateBrels (c : Core) (q : Pending) : (c.addPend q).lateBrels = c.lateBrels := rfl
@[simp] theorem Core.addPend_segs (c : Core) (q : Pending) : (c.addPend q).segs = c.segs := rfl
@[simp] theorem Core.addPend_parked (c : Core) (q : Pending) : (c.addPend q).parked = c.parked := rfl
@[simp] theorem Core.addPend_outgoing (c : Core) (q : Pending) : (c.addPend q).outgoing = c.outgoing := rfl
@[simp] theorem Core.addPend_parkAt (c : Core) (q : Pending) : (c.addPend q).parkAt = c.parkAt := rfl
@[simp] theorem Core.addPend_prevCtx (c : Core) (q : Pending) : (c.addPend q).prevCtx = c.prevCtx := rfl
@[simp] theorem Core.addPend_bankCtx (c : Core) (q : Pending) : (c.addPend q).bankCtx = c.bankCtx := rfl
@[simp] theorem Core.addPend_nextBanks (c : Core) (q : Pending) : (c.addPend q).nextBanks = c.nextBanks := rfl
@[simp] theorem Core.addPend_delivered (c : Core) (q : Pending) : (c.addPend q).delivered = c.delivered := rfl

@[simp] theorem Core.setTrap_work (c : Core) (t : TrapRec) : (c.setTrap t).work = c.work := rfl
@[simp] theorem Core.setTrap_mark (c : Core) (t : TrapRec) : (c.setTrap t).mark = c.mark := rfl
@[simp] theorem Core.setTrap_com (c : Core) (t : TrapRec) : (c.setTrap t).com = c.com := rfl
@[simp] theorem Core.setTrap_run (c : Core) (t : TrapRec) : (c.setTrap t).run = c.run := rfl
@[simp] theorem Core.setTrap_bown (c : Core) (t : TrapRec) : (c.setTrap t).bown = c.bown := rfl
@[simp] theorem Core.setTrap_sup (c : Core) (t : TrapRec) : (c.setTrap t).sup = c.sup := rfl
@[simp] theorem Core.setTrap_bke (c : Core) (t : TrapRec) : (c.setTrap t).bke = c.bke := rfl
@[simp] theorem Core.setTrap_sstep (c : Core) (t : TrapRec) : (c.setTrap t).sstep = c.sstep := rfl
@[simp] theorem Core.setTrap_hzd (c : Core) (t : TrapRec) : (c.setTrap t).hzd = c.hzd := rfl
@[simp] theorem Core.setTrap_svec (c : Core) (t : TrapRec) : (c.setTrap t).svec = c.svec := rfl
@[simp] theorem Core.setTrap_save (c : Core) (t : TrapRec) : (c.setTrap t).save = c.save := rfl
@[simp] theorem Core.setTrap_areas (c : Core) (t : TrapRec) : (c.setTrap t).areas = c.areas := rfl
@[simp] theorem Core.setTrap_ctx (c : Core) (t : TrapRec) : (c.setTrap t).ctx = c.ctx := rfl
@[simp] theorem Core.setTrap_lcore (c : Core) (t : TrapRec) : (c.setTrap t).lcore = c.lcore := rfl
@[simp] theorem Core.setTrap_image (c : Core) (t : TrapRec) : (c.setTrap t).image = c.image := rfl
@[simp] theorem Core.setTrap_queue (c : Core) (t : TrapRec) : (c.setTrap t).queue = c.queue := rfl
@[simp] theorem Core.setTrap_seg (c : Core) (t : TrapRec) : (c.setTrap t).seg = c.seg := rfl
@[simp] theorem Core.setTrap_pending (c : Core) (t : TrapRec) : (c.setTrap t).pending = c.pending := rfl
@[simp] theorem Core.setTrap_tiles (c : Core) (t : TrapRec) : (c.setTrap t).tiles = c.tiles := rfl
@[simp] theorem Core.setTrap_opaq (c : Core) (t : TrapRec) : (c.setTrap t).opaq = c.opaq := rfl
@[simp] theorem Core.setTrap_heldStores (c : Core) (t : TrapRec) : (c.setTrap t).heldStores = c.heldStores := rfl
@[simp] theorem Core.setTrap_pressAt (c : Core) (t : TrapRec) : (c.setTrap t).pressAt = c.pressAt := rfl
@[simp] theorem Core.setTrap_applied (c : Core) (t : TrapRec) : (c.setTrap t).applied = c.applied := rfl
@[simp] theorem Core.setTrap_reads (c : Core) (t : TrapRec) : (c.setTrap t).reads = c.reads := rfl
@[simp] theorem Core.setTrap_standIn (c : Core) (t : TrapRec) : (c.setTrap t).standIn = c.standIn := rfl
@[simp] theorem Core.setTrap_failRec (c : Core) (t : TrapRec) : (c.setTrap t).failRec = c.failRec := rfl
@[simp] theorem Core.setTrap_badRec (c : Core) (t : TrapRec) : (c.setTrap t).badRec = c.badRec := rfl
@[simp] theorem Core.setTrap_rolls (c : Core) (t : TrapRec) : (c.setTrap t).rolls = c.rolls := rfl
@[simp] theorem Core.setTrap_comAt (c : Core) (t : TrapRec) : (c.setTrap t).comAt = c.comAt := rfl
@[simp] theorem Core.setTrap_restarting (c : Core) (t : TrapRec) : (c.setTrap t).restarting = c.restarting := rfl
@[simp] theorem Core.setTrap_holdUntil (c : Core) (t : TrapRec) : (c.setTrap t).holdUntil = c.holdUntil := rfl
@[simp] theorem Core.setTrap_sync (c : Core) (t : TrapRec) : (c.setTrap t).sync = c.sync := rfl
@[simp] theorem Core.setTrap_async (c : Core) (t : TrapRec) : (c.setTrap t).async = c.async := rfl
@[simp] theorem Core.setTrap_preempt (c : Core) (t : TrapRec) : (c.setTrap t).preempt = c.preempt := rfl
@[simp] theorem Core.setTrap_saveKind (c : Core) (t : TrapRec) : (c.setTrap t).saveKind = c.saveKind := rfl
@[simp] theorem Core.setTrap_bskip (c : Core) (t : TrapRec) : (c.setTrap t).bskip = c.bskip := rfl
@[simp] theorem Core.setTrap_breakNow (c : Core) (t : TrapRec) : (c.setTrap t).breakNow = c.breakNow := rfl
@[simp] theorem Core.setTrap_value (c : Core) (t : TrapRec) : (c.setTrap t).value = c.value := rfl
@[simp] theorem Core.setTrap_heldValue (c : Core) (t : TrapRec) : (c.setTrap t).heldValue = c.heldValue := rfl
@[simp] theorem Core.setTrap_valueBack (c : Core) (t : TrapRec) : (c.setTrap t).valueBack = c.valueBack := rfl
@[simp] theorem Core.setTrap_grafts (c : Core) (t : TrapRec) : (c.setTrap t).grafts = c.grafts := rfl
@[simp] theorem Core.setTrap_inserts (c : Core) (t : TrapRec) : (c.setTrap t).inserts = c.inserts := rfl
@[simp] theorem Core.setTrap_comp (c : Core) (t : TrapRec) : (c.setTrap t).comp = c.comp := rfl
@[simp] theorem Core.setTrap_reserved (c : Core) (t : TrapRec) : (c.setTrap t).reserved = c.reserved := rfl
@[simp] theorem Core.setTrap_lx (c : Core) (t : TrapRec) : (c.setTrap t).lx = c.lx := rfl
@[simp] theorem Core.setTrap_lit (c : Core) (t : TrapRec) : (c.setTrap t).lit = c.lit := rfl
@[simp] theorem Core.setTrap_srUsed (c : Core) (t : TrapRec) : (c.setTrap t).srUsed = c.srUsed := rfl
@[simp] theorem Core.setTrap_markAfter (c : Core) (t : TrapRec) : (c.setTrap t).markAfter = c.markAfter := rfl
@[simp] theorem Core.setTrap_skipTo (c : Core) (t : TrapRec) : (c.setTrap t).skipTo = c.skipTo := rfl
@[simp] theorem Core.setTrap_enter (c : Core) (t : TrapRec) : (c.setTrap t).enter = c.enter := rfl
@[simp] theorem Core.setTrap_callQ (c : Core) (t : TrapRec) : (c.setTrap t).callQ = c.callQ := rfl
@[simp] theorem Core.setTrap_repAt (c : Core) (t : TrapRec) : (c.setTrap t).repAt = c.repAt := rfl
@[simp] theorem Core.setTrap_merged (c : Core) (t : TrapRec) : (c.setTrap t).merged = c.merged := rfl
@[simp] theorem Core.setTrap_flagAt (c : Core) (t : TrapRec) : (c.setTrap t).flagAt = c.flagAt := rfl
@[simp] theorem Core.setTrap_flagHit (c : Core) (t : TrapRec) : (c.setTrap t).flagHit = c.flagHit := rfl
@[simp] theorem Core.setTrap_flagNew (c : Core) (t : TrapRec) : (c.setTrap t).flagNew = c.flagNew := rfl
@[simp] theorem Core.setTrap_turnAt (c : Core) (t : TrapRec) : (c.setTrap t).turnAt = c.turnAt := rfl
@[simp] theorem Core.setTrap_dropped (c : Core) (t : TrapRec) : (c.setTrap t).dropped = c.dropped := rfl
@[simp] theorem Core.setTrap_issued (c : Core) (t : TrapRec) : (c.setTrap t).issued = c.issued := rfl
@[simp] theorem Core.setTrap_overran (c : Core) (t : TrapRec) : (c.setTrap t).overran = c.overran := rfl
@[simp] theorem Core.setTrap_overAt (c : Core) (t : TrapRec) : (c.setTrap t).overAt = c.overAt := rfl
@[simp] theorem Core.setTrap_stated (c : Core) (t : TrapRec) : (c.setTrap t).stated = c.stated := rfl
@[simp] theorem Core.setTrap_yields (c : Core) (t : TrapRec) : (c.setTrap t).yields = c.yields := rfl
@[simp] theorem Core.setTrap_brels (c : Core) (t : TrapRec) : (c.setTrap t).brels = c.brels := rfl
@[simp] theorem Core.setTrap_lateBrels (c : Core) (t : TrapRec) : (c.setTrap t).lateBrels = c.lateBrels := rfl
@[simp] theorem Core.setTrap_segs (c : Core) (t : TrapRec) : (c.setTrap t).segs = c.segs := rfl
@[simp] theorem Core.setTrap_parked (c : Core) (t : TrapRec) : (c.setTrap t).parked = c.parked := rfl
@[simp] theorem Core.setTrap_outgoing (c : Core) (t : TrapRec) : (c.setTrap t).outgoing = c.outgoing := rfl
@[simp] theorem Core.setTrap_parkAt (c : Core) (t : TrapRec) : (c.setTrap t).parkAt = c.parkAt := rfl
@[simp] theorem Core.setTrap_prevCtx (c : Core) (t : TrapRec) : (c.setTrap t).prevCtx = c.prevCtx := rfl
@[simp] theorem Core.setTrap_bankCtx (c : Core) (t : TrapRec) : (c.setTrap t).bankCtx = c.bankCtx := rfl
@[simp] theorem Core.setTrap_nextBanks (c : Core) (t : TrapRec) : (c.setTrap t).nextBanks = c.nextBanks := rfl
@[simp] theorem Core.setTrap_delivered (c : Core) (t : TrapRec) : (c.setTrap t).delivered = c.delivered := rfl

/-! ### Uncommitted segments discarded (R116) -/

@[simp] theorem Core.discard_com (c : Core) : (c.discard).com = c.com := rfl
@[simp] theorem Core.discard_bown (c : Core) : (c.discard).bown = c.bown := rfl
@[simp] theorem Core.discard_tcause (c : Core) : (c.discard).tcause = c.tcause := rfl
@[simp] theorem Core.discard_tpc (c : Core) : (c.discard).tpc = c.tpc := rfl
@[simp] theorem Core.discard_tinfo (c : Core) : (c.discard).tinfo = c.tinfo := rfl
@[simp] theorem Core.discard_sup (c : Core) : (c.discard).sup = c.sup := rfl
@[simp] theorem Core.discard_bke (c : Core) : (c.discard).bke = c.bke := rfl
@[simp] theorem Core.discard_sstep (c : Core) : (c.discard).sstep = c.sstep := rfl
@[simp] theorem Core.discard_hzd (c : Core) : (c.discard).hzd = c.hzd := rfl
@[simp] theorem Core.discard_svec (c : Core) : (c.discard).svec = c.svec := rfl
@[simp] theorem Core.discard_save (c : Core) : (c.discard).save = c.save := rfl
@[simp] theorem Core.discard_areas (c : Core) : (c.discard).areas = c.areas := rfl
@[simp] theorem Core.discard_ctx (c : Core) : (c.discard).ctx = c.ctx := rfl
@[simp] theorem Core.discard_lcore (c : Core) : (c.discard).lcore = c.lcore := rfl
@[simp] theorem Core.discard_image (c : Core) : (c.discard).image = c.image := rfl
@[simp] theorem Core.discard_queue (c : Core) : (c.discard).queue = c.queue := rfl
@[simp] theorem Core.discard_tiles (c : Core) : (c.discard).tiles = c.tiles := rfl
@[simp] theorem Core.discard_opaq (c : Core) : (c.discard).opaq = c.opaq := rfl
@[simp] theorem Core.discard_heldStores (c : Core) : (c.discard).heldStores = c.heldStores := rfl
@[simp] theorem Core.discard_pressAt (c : Core) : (c.discard).pressAt = c.pressAt := rfl
@[simp] theorem Core.discard_applied (c : Core) : (c.discard).applied = c.applied := rfl
@[simp] theorem Core.discard_reads (c : Core) : (c.discard).reads = c.reads := rfl
@[simp] theorem Core.discard_standIn (c : Core) : (c.discard).standIn = c.standIn := rfl
@[simp] theorem Core.discard_failRec (c : Core) : (c.discard).failRec = c.failRec := rfl
@[simp] theorem Core.discard_badRec (c : Core) : (c.discard).badRec = c.badRec := rfl
@[simp] theorem Core.discard_rolls (c : Core) : (c.discard).rolls = c.rolls := rfl
@[simp] theorem Core.discard_comAt (c : Core) : (c.discard).comAt = c.comAt := rfl
@[simp] theorem Core.discard_restarting (c : Core) : (c.discard).restarting = c.restarting := rfl
@[simp] theorem Core.discard_holdUntil (c : Core) : (c.discard).holdUntil = c.holdUntil := rfl
@[simp] theorem Core.discard_async (c : Core) : (c.discard).async = c.async := rfl
@[simp] theorem Core.discard_preempt (c : Core) : (c.discard).preempt = c.preempt := rfl
@[simp] theorem Core.discard_saveKind (c : Core) : (c.discard).saveKind = c.saveKind := rfl
@[simp] theorem Core.discard_bskip (c : Core) : (c.discard).bskip = c.bskip := rfl
@[simp] theorem Core.discard_value (c : Core) : (c.discard).value = c.value := rfl
@[simp] theorem Core.discard_heldValue (c : Core) : (c.discard).heldValue = c.heldValue := rfl
@[simp] theorem Core.discard_valueBack (c : Core) : (c.discard).valueBack = c.valueBack := rfl
@[simp] theorem Core.discard_grafts (c : Core) : (c.discard).grafts = c.grafts := rfl
@[simp] theorem Core.discard_inserts (c : Core) : (c.discard).inserts = c.inserts := rfl
@[simp] theorem Core.discard_comp (c : Core) : (c.discard).comp = c.comp := rfl
@[simp] theorem Core.discard_lx (c : Core) : (c.discard).lx = c.lx := rfl
@[simp] theorem Core.discard_lit (c : Core) : (c.discard).lit = c.lit := rfl
@[simp] theorem Core.discard_repAt (c : Core) : (c.discard).repAt = c.repAt := rfl
@[simp] theorem Core.discard_flagAt (c : Core) : (c.discard).flagAt = c.flagAt := rfl
@[simp] theorem Core.discard_flagHit (c : Core) : (c.discard).flagHit = c.flagHit := rfl
@[simp] theorem Core.discard_flagNew (c : Core) : (c.discard).flagNew = c.flagNew := rfl
@[simp] theorem Core.discard_turnAt (c : Core) : (c.discard).turnAt = c.turnAt := rfl
@[simp] theorem Core.discard_dropped (c : Core) : (c.discard).dropped = c.dropped := rfl
@[simp] theorem Core.discard_issued (c : Core) : (c.discard).issued = c.issued := rfl
@[simp] theorem Core.discard_overran (c : Core) : (c.discard).overran = c.overran := rfl
@[simp] theorem Core.discard_overAt (c : Core) : (c.discard).overAt = c.overAt := rfl
@[simp] theorem Core.discard_stated (c : Core) : (c.discard).stated = c.stated := rfl
@[simp] theorem Core.discard_yields (c : Core) : (c.discard).yields = c.yields := rfl
@[simp] theorem Core.discard_brels (c : Core) : (c.discard).brels = c.brels := rfl
@[simp] theorem Core.discard_lateBrels (c : Core) : (c.discard).lateBrels = c.lateBrels := rfl
@[simp] theorem Core.discard_segs (c : Core) : (c.discard).segs = c.segs := rfl
@[simp] theorem Core.discard_parked (c : Core) : (c.discard).parked = c.parked := rfl
@[simp] theorem Core.discard_outgoing (c : Core) : (c.discard).outgoing = c.outgoing := rfl
@[simp] theorem Core.discard_parkAt (c : Core) : (c.discard).parkAt = c.parkAt := rfl
@[simp] theorem Core.discard_prevCtx (c : Core) : (c.discard).prevCtx = c.prevCtx := rfl
@[simp] theorem Core.discard_bankCtx (c : Core) : (c.discard).bankCtx = c.bankCtx := rfl
@[simp] theorem Core.discard_nextBanks (c : Core) : (c.discard).nextBanks = c.nextBanks := rfl
@[simp] theorem Core.discard_delivered (c : Core) : (c.discard).delivered = c.delivered := rfl

/-! ### A segment closed at a mark (R107) -/

@[simp] theorem Core.closeSeg_work (c : Core) (cyc : Nat) : (c.closeSeg cyc).work = c.work := rfl
@[simp] theorem Core.closeSeg_com (c : Core) (cyc : Nat) : (c.closeSeg cyc).com = c.com := rfl
@[simp] theorem Core.closeSeg_run (c : Core) (cyc : Nat) : (c.closeSeg cyc).run = c.run := rfl
@[simp] theorem Core.closeSeg_bown (c : Core) (cyc : Nat) : (c.closeSeg cyc).bown = c.bown := rfl
@[simp] theorem Core.closeSeg_tcause (c : Core) (cyc : Nat) : (c.closeSeg cyc).tcause = c.tcause := rfl
@[simp] theorem Core.closeSeg_tpc (c : Core) (cyc : Nat) : (c.closeSeg cyc).tpc = c.tpc := rfl
@[simp] theorem Core.closeSeg_tinfo (c : Core) (cyc : Nat) : (c.closeSeg cyc).tinfo = c.tinfo := rfl
@[simp] theorem Core.closeSeg_sup (c : Core) (cyc : Nat) : (c.closeSeg cyc).sup = c.sup := rfl
@[simp] theorem Core.closeSeg_bke (c : Core) (cyc : Nat) : (c.closeSeg cyc).bke = c.bke := rfl
@[simp] theorem Core.closeSeg_sstep (c : Core) (cyc : Nat) : (c.closeSeg cyc).sstep = c.sstep := rfl
@[simp] theorem Core.closeSeg_hzd (c : Core) (cyc : Nat) : (c.closeSeg cyc).hzd = c.hzd := rfl
@[simp] theorem Core.closeSeg_svec (c : Core) (cyc : Nat) : (c.closeSeg cyc).svec = c.svec := rfl
@[simp] theorem Core.closeSeg_save (c : Core) (cyc : Nat) : (c.closeSeg cyc).save = c.save := rfl
@[simp] theorem Core.closeSeg_areas (c : Core) (cyc : Nat) : (c.closeSeg cyc).areas = c.areas := rfl
@[simp] theorem Core.closeSeg_ctx (c : Core) (cyc : Nat) : (c.closeSeg cyc).ctx = c.ctx := rfl
@[simp] theorem Core.closeSeg_lcore (c : Core) (cyc : Nat) : (c.closeSeg cyc).lcore = c.lcore := rfl
@[simp] theorem Core.closeSeg_image (c : Core) (cyc : Nat) : (c.closeSeg cyc).image = c.image := rfl
@[simp] theorem Core.closeSeg_queue (c : Core) (cyc : Nat) : (c.closeSeg cyc).queue = c.queue := rfl
@[simp] theorem Core.closeSeg_tiles (c : Core) (cyc : Nat) : (c.closeSeg cyc).tiles = c.tiles := rfl
@[simp] theorem Core.closeSeg_opaq (c : Core) (cyc : Nat) : (c.closeSeg cyc).opaq = c.opaq := rfl
@[simp] theorem Core.closeSeg_heldStores (c : Core) (cyc : Nat) : (c.closeSeg cyc).heldStores = c.heldStores := rfl
@[simp] theorem Core.closeSeg_pressAt (c : Core) (cyc : Nat) : (c.closeSeg cyc).pressAt = c.pressAt := rfl
@[simp] theorem Core.closeSeg_applied (c : Core) (cyc : Nat) : (c.closeSeg cyc).applied = c.applied := rfl
@[simp] theorem Core.closeSeg_reads (c : Core) (cyc : Nat) : (c.closeSeg cyc).reads = c.reads := rfl
@[simp] theorem Core.closeSeg_standIn (c : Core) (cyc : Nat) : (c.closeSeg cyc).standIn = c.standIn := rfl
@[simp] theorem Core.closeSeg_failRec (c : Core) (cyc : Nat) : (c.closeSeg cyc).failRec = c.failRec := rfl
@[simp] theorem Core.closeSeg_badRec (c : Core) (cyc : Nat) : (c.closeSeg cyc).badRec = c.badRec := rfl
@[simp] theorem Core.closeSeg_rolls (c : Core) (cyc : Nat) : (c.closeSeg cyc).rolls = c.rolls := rfl
@[simp] theorem Core.closeSeg_comAt (c : Core) (cyc : Nat) : (c.closeSeg cyc).comAt = c.comAt := rfl
@[simp] theorem Core.closeSeg_restarting (c : Core) (cyc : Nat) : (c.closeSeg cyc).restarting = c.restarting := rfl
@[simp] theorem Core.closeSeg_holdUntil (c : Core) (cyc : Nat) : (c.closeSeg cyc).holdUntil = c.holdUntil := rfl
@[simp] theorem Core.closeSeg_sync (c : Core) (cyc : Nat) : (c.closeSeg cyc).sync = c.sync := rfl
@[simp] theorem Core.closeSeg_async (c : Core) (cyc : Nat) : (c.closeSeg cyc).async = c.async := rfl
@[simp] theorem Core.closeSeg_preempt (c : Core) (cyc : Nat) : (c.closeSeg cyc).preempt = c.preempt := rfl
@[simp] theorem Core.closeSeg_saveKind (c : Core) (cyc : Nat) : (c.closeSeg cyc).saveKind = c.saveKind := rfl
@[simp] theorem Core.closeSeg_bskip (c : Core) (cyc : Nat) : (c.closeSeg cyc).bskip = c.bskip := rfl
@[simp] theorem Core.closeSeg_breakNow (c : Core) (cyc : Nat) : (c.closeSeg cyc).breakNow = c.breakNow := rfl
@[simp] theorem Core.closeSeg_value (c : Core) (cyc : Nat) : (c.closeSeg cyc).value = c.value := rfl
@[simp] theorem Core.closeSeg_heldValue (c : Core) (cyc : Nat) : (c.closeSeg cyc).heldValue = c.heldValue := rfl
@[simp] theorem Core.closeSeg_valueBack (c : Core) (cyc : Nat) : (c.closeSeg cyc).valueBack = c.valueBack := rfl
@[simp] theorem Core.closeSeg_grafts (c : Core) (cyc : Nat) : (c.closeSeg cyc).grafts = c.grafts := rfl
@[simp] theorem Core.closeSeg_inserts (c : Core) (cyc : Nat) : (c.closeSeg cyc).inserts = c.inserts := rfl
@[simp] theorem Core.closeSeg_comp (c : Core) (cyc : Nat) : (c.closeSeg cyc).comp = c.comp := rfl
@[simp] theorem Core.closeSeg_reserved (c : Core) (cyc : Nat) : (c.closeSeg cyc).reserved = c.reserved := rfl
@[simp] theorem Core.closeSeg_lx (c : Core) (cyc : Nat) : (c.closeSeg cyc).lx = c.lx := rfl
@[simp] theorem Core.closeSeg_lit (c : Core) (cyc : Nat) : (c.closeSeg cyc).lit = c.lit := rfl
@[simp] theorem Core.closeSeg_srUsed (c : Core) (cyc : Nat) : (c.closeSeg cyc).srUsed = c.srUsed := rfl
@[simp] theorem Core.closeSeg_markAfter (c : Core) (cyc : Nat) : (c.closeSeg cyc).markAfter = c.markAfter := rfl
@[simp] theorem Core.closeSeg_skipTo (c : Core) (cyc : Nat) : (c.closeSeg cyc).skipTo = c.skipTo := rfl
@[simp] theorem Core.closeSeg_enter (c : Core) (cyc : Nat) : (c.closeSeg cyc).enter = c.enter := rfl
@[simp] theorem Core.closeSeg_callQ (c : Core) (cyc : Nat) : (c.closeSeg cyc).callQ = c.callQ := rfl
@[simp] theorem Core.closeSeg_repAt (c : Core) (cyc : Nat) : (c.closeSeg cyc).repAt = c.repAt := rfl
@[simp] theorem Core.closeSeg_merged (c : Core) (cyc : Nat) : (c.closeSeg cyc).merged = c.merged := rfl
@[simp] theorem Core.closeSeg_flagAt (c : Core) (cyc : Nat) : (c.closeSeg cyc).flagAt = c.flagAt := rfl
@[simp] theorem Core.closeSeg_flagHit (c : Core) (cyc : Nat) : (c.closeSeg cyc).flagHit = c.flagHit := rfl
@[simp] theorem Core.closeSeg_flagNew (c : Core) (cyc : Nat) : (c.closeSeg cyc).flagNew = c.flagNew := rfl
@[simp] theorem Core.closeSeg_turnAt (c : Core) (cyc : Nat) : (c.closeSeg cyc).turnAt = c.turnAt := rfl
@[simp] theorem Core.closeSeg_dropped (c : Core) (cyc : Nat) : (c.closeSeg cyc).dropped = c.dropped := rfl
@[simp] theorem Core.closeSeg_issued (c : Core) (cyc : Nat) : (c.closeSeg cyc).issued = c.issued := rfl
@[simp] theorem Core.closeSeg_overran (c : Core) (cyc : Nat) : (c.closeSeg cyc).overran = c.overran := rfl
@[simp] theorem Core.closeSeg_overAt (c : Core) (cyc : Nat) : (c.closeSeg cyc).overAt = c.overAt := rfl
@[simp] theorem Core.closeSeg_stated (c : Core) (cyc : Nat) : (c.closeSeg cyc).stated = c.stated := rfl
@[simp] theorem Core.closeSeg_yields (c : Core) (cyc : Nat) : (c.closeSeg cyc).yields = c.yields := rfl
@[simp] theorem Core.closeSeg_brels (c : Core) (cyc : Nat) : (c.closeSeg cyc).brels = c.brels := rfl
@[simp] theorem Core.closeSeg_lateBrels (c : Core) (cyc : Nat) : (c.closeSeg cyc).lateBrels = c.lateBrels := rfl
@[simp] theorem Core.closeSeg_segs (c : Core) (cyc : Nat) : (c.closeSeg cyc).segs = c.segs := rfl
@[simp] theorem Core.closeSeg_parked (c : Core) (cyc : Nat) : (c.closeSeg cyc).parked = c.parked := rfl
@[simp] theorem Core.closeSeg_outgoing (c : Core) (cyc : Nat) : (c.closeSeg cyc).outgoing = c.outgoing := rfl
@[simp] theorem Core.closeSeg_parkAt (c : Core) (cyc : Nat) : (c.closeSeg cyc).parkAt = c.parkAt := rfl
@[simp] theorem Core.closeSeg_prevCtx (c : Core) (cyc : Nat) : (c.closeSeg cyc).prevCtx = c.prevCtx := rfl
@[simp] theorem Core.closeSeg_bankCtx (c : Core) (cyc : Nat) : (c.closeSeg cyc).bankCtx = c.bankCtx := rfl
@[simp] theorem Core.closeSeg_nextBanks (c : Core) (cyc : Nat) : (c.closeSeg cyc).nextBanks = c.nextBanks := rfl
@[simp] theorem Core.closeSeg_delivered (c : Core) (cyc : Nat) : (c.closeSeg cyc).delivered = c.delivered := rfl

/-! ### The registers of a handler (R261) -/

@[simp] theorem handlerRegs_sc (r : Regs) (svec : Word) : (handlerRegs r svec).sc = r.sc := rfl
@[simp] theorem handlerRegs_poison (r : Regs) (svec : Word) : (handlerRegs r svec).poison = r.poison := rfl
@[simp] theorem handlerRegs_atag (r : Regs) (svec : Word) : (handlerRegs r svec).atag = r.atag := rfl
@[simp] theorem handlerRegs_v (r : Regs) (svec : Word) : (handlerRegs r svec).v = r.v := rfl
@[simp] theorem handlerRegs_vpoison (r : Regs) (svec : Word) : (handlerRegs r svec).vpoison = r.vpoison := rfl
@[simp] theorem handlerRegs_e (r : Regs) (svec : Word) : (handlerRegs r svec).e = r.e := rfl
@[simp] theorem handlerRegs_p (r : Regs) (svec : Word) : (handlerRegs r svec).p = r.p := rfl
@[simp] theorem handlerRegs_g (r : Regs) (svec : Word) : (handlerRegs r svec).g = r.g := rfl
@[simp] theorem handlerRegs_stat (r : Regs) (svec : Word) : (handlerRegs r svec).stat = r.stat := rfl
@[simp] theorem handlerRegs_warn (r : Regs) (svec : Word) : (handlerRegs r svec).warn = r.warn := rfl
@[simp] theorem handlerRegs_seed (r : Regs) (svec : Word) : (handlerRegs r svec).seed = r.seed := rfl
@[simp] theorem handlerRegs_sridx (r : Regs) (svec : Word) : (handlerRegs r svec).sridx = r.sridx := rfl
@[simp] theorem handlerRegs_vrb (r : Regs) (svec : Word) : (handlerRegs r svec).vrb = r.vrb := rfl
@[simp] theorem handlerRegs_prb (r : Regs) (svec : Word) : (handlerRegs r svec).prb = r.prb := rfl
@[simp] theorem handlerRegs_goff (r : Regs) (svec : Word) : (handlerRegs r svec).goff = r.goff := rfl
@[simp] theorem handlerRegs_body (r : Regs) (svec : Word) : (handlerRegs r svec).body = r.body := rfl
@[simp] theorem handlerRegs_prof (r : Regs) (svec : Word) : (handlerRegs r svec).prof = r.prof := rfl
@[simp] theorem handlerRegs_rz (r : Regs) (svec : Word) : (handlerRegs r svec).rz = r.rz := rfl
@[simp] theorem handlerRegs_bno (r : Regs) (svec : Word) : (handlerRegs r svec).bno = r.bno := rfl
@[simp] theorem handlerRegs_lastPc (r : Regs) (svec : Word) : (handlerRegs r svec).lastPc = r.lastPc := rfl
@[simp] theorem handlerRegs_lastSpace (r : Regs) (svec : Word) : (handlerRegs r svec).lastSpace = r.lastSpace := rfl
@[simp] theorem handlerRegs_comps (r : Regs) (svec : Word) : (handlerRegs r svec).comps = r.comps := rfl

/-! ### What the updates write -/

@[simp] theorem Core.discard_work (c : Core) : c.discard.work = c.com := rfl
@[simp] theorem Core.discard_mark (c : Core) : c.discard.mark = c.com := rfl
@[simp] theorem Core.discard_seg (c : Core) : c.discard.seg = Segment.opened c.com.pc c.com.space := rfl
@[simp] theorem Core.discard_pending (c : Core) : c.discard.pending = none := rfl
@[simp] theorem Core.discard_sync (c : Core) : c.discard.sync = none := rfl
@[simp] theorem Core.setTrap_tcause (c : Core) (t : TrapRec) : (c.setTrap t).tcause = t.causeWord := rfl
@[simp] theorem Core.setTrap_tpc (c : Core) (t : TrapRec) : (c.setTrap t).tpc = t.pcWord := rfl
@[simp] theorem Core.setTrap_tinfo (c : Core) (t : TrapRec) : (c.setTrap t).tinfo = t.info := rfl
@[simp] theorem Core.addPend_pend (c : Core) (q : Pending) : (c.addPend q).work.pend = c.work.pend ++ [q] := rfl
@[simp] theorem handlerRegs_pc (r : Regs) (svec : Word) : (handlerRegs r svec).pc = svec := rfl
@[simp] theorem handlerRegs_space (r : Regs) (svec : Word) : (handlerRegs r svec).space = false := rfl
@[simp] theorem handlerRegs_pend (r : Regs) (svec : Word) : (handlerRegs r svec).pend = [] := rfl
@[simp] theorem handlerRegs_frames (r : Regs) (svec : Word) : (handlerRegs r svec).frames = [] := rfl
@[simp] theorem handlerRegs_flags (r : Regs) (svec : Word) : (handlerRegs r svec).flags = 0 := rfl

/-! ### Reading a core back -/

/-- The core just replaced is the one put there. -/
@[simp] theorem State.core_setCore_same (s : State) (p : Nat) (c : Core) : (s.setCore p c).core p = c :=
  Store.get_put_same _ _ _ _

/-- The core just changed is its image. -/
@[simp] theorem State.core_onCore_same (s : State) (p : Nat) (f : Core → Core) : (s.onCore p f).core p = f (s.core p) :=
  Store.get_put_same _ _ _ _

/-- Replacing a core leaves every other one. -/
theorem State.core_setCore_other {s : State} {p q : Nat} (c : Core) (hq : q ≠ p) : (s.setCore p c).core q = s.core q :=
  Store.get_put_other _ _ hq

/-- Changing a core leaves every other one. -/
theorem State.core_onCore_other {s : State} {p q : Nat} (f : Core → Core) (hq : q ≠ p) : (s.onCore p f).core q = s.core q :=
  State.core_setCore_other _ hq

/-- Replacing a core keeps the form of the list of cores. -/
theorem State.cores_setCore {s : State} (p : Nat) (c : Core) (h : Store.sortedFrom 0 s.cores = true) :
    Store.sortedFrom 0 (s.setCore p c).cores = true :=
  Store.sortedFrom_put c h (Nat.zero_le _)

/-- Changing a core keeps the form of the list of cores. -/
theorem State.cores_onCore {s : State} (p : Nat) (f : Core → Core) (h : Store.sortedFrom 0 s.cores = true) :
    Store.sortedFrom 0 (s.onCore p f).cores = true :=
  State.cores_setCore p _ h

end Sys2Proof.Machine
end

