-- ==== Sys2Proof/Laws/Memory.lean ====
section
/-! SUPPORT. Laws of memory: a read after a write, and the canonical form, which every operation that changes memory keeps. -/

namespace Sys2Proof.Machine

/-- Memory after cold reset has the canonical form. -/
theorem State.reset_mem_wf : Memory.wf State.reset.mem = true := rfl

@[simp] theorem Memory.write_nil (m : Memory) : Memory.write m [] = m := rfl

@[simp] theorem Memory.write_cons (m : Memory) (a : Nat) (b : Byte) (bs : List (Nat × Byte)) :
    Memory.write m ((a, b) :: bs) = Memory.write (Store.set 0 m a b) bs := rfl

theorem Memory.sorted_of_wf {m : Memory} (h : Memory.wf m = true) : Store.sortedFrom 0 m = true := by
  simp only [Memory.wf, Store.wf, Bool.and_eq_true] at h
  exact h.1

/-- Writing bytes keeps the canonical form. -/
theorem Memory.wf_write {m : Memory} (bs : List (Nat × Byte)) (h : Memory.wf m = true) :
    Memory.wf (Memory.write m bs) = true := by
  induction bs generalizing m with
  | nil => exact h
  | cons x bs ih => exact ih (Store.wf_set 0 x.1 x.2 h)

/-- Dropping bytes keeps the canonical form. -/
theorem Memory.wf_filter {m : Memory} (f : Nat × Byte → Bool) (h : Memory.wf m = true) :
    Memory.wf (m.filter f) = true :=
  Store.wf_filter 0 f h

/-- A write leaves every byte that it does not name. -/
theorem Memory.get_write_other {m : Memory} {bs : List (Nat × Byte)} {a : Nat} (h : Memory.wf m = true)
    (ha : ∀ x ∈ bs, x.1 ≠ a) : Store.get 0 (Memory.write m bs) a = Store.get 0 m a := by
  induction bs generalizing m with
  | nil => rfl
  | cons x bs ih =>
    have h1 := ih (Store.wf_set 0 x.1 x.2 h) fun y hy => ha y (List.mem_cons_of_mem _ hy)
    rw [show Memory.write m (x :: bs) = Memory.write (Store.set 0 m x.1 x.2) bs from rfl, h1]
    exact Store.get_set_other 0 x.2 (Memory.sorted_of_wf h) (Ne.symm (ha x (List.mem_cons_self ..)))

/-- A byte that a write names once reads as the byte written. -/
theorem Memory.get_write_same {m : Memory} {bs cs : List (Nat × Byte)} {a : Nat} {b : Byte} (h : Memory.wf m = true)
    (hc : ∀ x ∈ cs, x.1 ≠ a) : Store.get 0 (Memory.write m (bs ++ (a, b) :: cs)) a = b := by
  have e : Memory.write m (bs ++ (a, b) :: cs) = Memory.write (Store.set 0 (Memory.write m bs) a b) cs := by
    simp [Memory.write]
  have hw := Memory.wf_write bs h
  rw [e, Memory.get_write_other (Store.wf_set 0 a b hw) hc]
  exact Store.get_set_same 0 a b (Memory.sorted_of_wf hw)

/-- A list of entries whose keys rise from `lo` to below `mid`, followed by one whose keys rise from `mid`. -/
theorem Store.sortedFrom_append {α : Type} {m n : Store α} {lo mid : Nat} (hm : Store.sortedFrom lo m = true)
    (hb : ∀ x ∈ m, x.1 < mid) (hn : Store.sortedFrom mid n = true) (h : lo ≤ mid) :
    Store.sortedFrom lo (m ++ n) = true := by
  induction m generalizing lo with
  | nil => exact Store.sortedFrom_mono hn h
  | cons x m ih =>
    obtain ⟨k, v⟩ := x
    simp only [Store.sortedFrom, Bool.and_eq_true, decide_eq_true_eq, List.cons_append] at hm ⊢
    have hk : k < mid := hb (k, v) (List.mem_cons_self ..)
    exact ⟨hm.1, ih hm.2 (fun y hy => hb y (List.mem_cons_of_mem _ hy)) (by omega)⟩

/-- Keys that rise, all at `mid` or above, rise from `mid`. -/
theorem Store.sortedFrom_of_le {α : Type} {m : Store α} {lo mid : Nat} (h : Store.sortedFrom lo m = true)
    (hb : ∀ x ∈ m, mid ≤ x.1) : Store.sortedFrom mid m = true := by
  cases m with
  | nil => rfl
  | cons x m =>
    obtain ⟨k, v⟩ := x
    simp only [Store.sortedFrom, Bool.and_eq_true, decide_eq_true_eq] at h ⊢
    exact ⟨hb (k, v) (List.mem_cons_self ..), h.2⟩

/-- Bytes at consecutive locations, one by one. -/
theorem bytesAt_cons (lo : Nat) (b : Byte) (bs : List Byte) : bytesAt lo (b :: bs) = (lo, b) :: bytesAt (lo + 1) bs := by
  simp only [bytesAt, List.length_cons, List.range_succ_eq_map, List.zipWith_cons_cons, Nat.add_zero, List.zipWith_map_left]
  congr 1
  refine congrArg (fun f => List.zipWith f _ _) (funext fun k => funext fun c => ?_)
  simp only [Nat.succ_eq_add_one]
  congr 1
  omega

theorem bytesAt_bounds (lo : Nat) (bs : List Byte) : ∀ x ∈ bytesAt lo bs, lo ≤ x.1 ∧ x.1 < lo + bs.length := by
  induction bs generalizing lo with
  | nil => simp [bytesAt]
  | cons b bs ih =>
    rw [bytesAt_cons]
    intro x hx
    rcases List.mem_cons.mp hx with rfl | hx
    · simp
    · have := ih _ x hx; simp only [List.length_cons]; omega

theorem bytesAt_sorted (lo : Nat) (bs : List Byte) : Store.sortedFrom lo (bytesAt lo bs) = true := by
  induction bs generalizing lo with
  | nil => rfl
  | cons b bs ih =>
    rw [bytesAt_cons]
    simp only [Store.sortedFrom, Bool.and_eq_true, decide_eq_true_eq]
    exact ⟨Nat.le_refl _, ih _⟩

/-- Replacing a run of bytes keeps the canonical form (the save area is written so, R263). -/
theorem Memory.wf_putRange {m : Memory} (lo : Nat) (bs : List Byte) (h : Memory.wf m = true) :
    Memory.wf (m.putRange lo bs) = true := by
  have hs := Memory.sorted_of_wf h
  have hall : ∀ x ∈ m, x.2 ≠ 0 := by
    simp only [Memory.wf, Store.wf, Bool.and_eq_true, List.all_eq_true, decide_eq_true_eq] at h
    exact h.2
  simp only [Memory.wf, Store.wf, Bool.and_eq_true, List.all_eq_true, decide_eq_true_eq, Memory.putRange]
  refine ⟨?_, fun x hx => ?_⟩
  · rw [List.append_assoc]
    refine Store.sortedFrom_append (mid := lo) (Store.sortedFrom_filter _ hs) (fun x hx => ?_) ?_ (Nat.zero_le _)
    · simpa using (List.mem_filter.mp hx).2
    · refine Store.sortedFrom_append (mid := lo + bs.length) (Store.sortedFrom_filter _ (bytesAt_sorted lo bs)) (fun x hx => ?_) ?_ (by omega)
      · exact (bytesAt_bounds lo bs x (List.mem_filter.mp hx).1).2
      · exact Store.sortedFrom_of_le (Store.sortedFrom_filter _ hs) fun x hx => by simpa using (List.mem_filter.mp hx).2
  · simp only [List.mem_append, List.mem_filter, decide_eq_true_eq] at hx
    rcases hx with (hx | hx) | hx
    · exact hall x hx.1
    · exact hx.2
    · exact hall x hx.1

theorem Memory.wf_writeItems {m : Memory} (base : Nat) (l : List Item) (h : Memory.wf m = true) :
    Memory.wf (writeItems base l m) = true := by
  induction l generalizing m with
  | nil => exact h
  | cons x l ih => exact ih (Memory.wf_putRange _ _ h)

/-! ### The operations of the state that change memory -/

theorem State.mem_wf_writeBytes {s : State} (bs : List (Nat × Byte)) (h : Memory.wf s.mem = true) :
    Memory.wf (s.writeBytes bs).mem = true :=
  Memory.wf_write bs h

theorem State.mem_wf_writeNat {s : State} (loc n v : Nat) (h : Memory.wf s.mem = true) :
    Memory.wf (s.writeNat loc n v).mem = true :=
  Memory.wf_write _ h

theorem mem_wf_updateObj {s : State} (ctx : Option Nat) (a loc : Nat) (u : ObjUpdate) (h : Memory.wf s.mem = true) :
    Memory.wf (updateObj s ctx a loc u).mem = true := by
  simp only [updateObj]
  split
  · exact h
  · split
    · exact h
    · exact Memory.wf_write _ h

/-- Both copies of a solera record are written as bytes (R177). -/
theorem mem_wf_putCopies {s : State} (r : SolRec) (h : Memory.wf s.mem = true) : Memory.wf (putCopies s r).mem = true :=
  Memory.wf_write _ h

/-- A published store is written as bytes, whatever the loads at their banks keep of what it replaces (R109, R127). -/
theorem mem_wf_performStore {s : State} (p : Nat) (e : CaskEntry) (h : Memory.wf s.mem = true) :
    Memory.wf (performStore p e s).mem = true :=
  Memory.wf_write _ h

theorem mem_wf_zeroRange {s : State} (lo hi : Nat) (h : Memory.wf s.mem = true) :
    Memory.wf (zeroRange lo hi s).mem = true :=
  Memory.wf_filter _ h

theorem mem_wf_copyPage {s : State} (src dst size : Nat) (h : Memory.wf s.mem = true) :
    Memory.wf (copyPage src dst size s).mem = true :=
  Memory.wf_write _ (Memory.wf_filter _ h)

theorem mem_wf_expandPage {s : State} (e : Nat × Leaf) (h : Memory.wf s.mem = true) :
    Memory.wf (expandPage s e).mem = true :=
  Memory.wf_write _ (Memory.wf_filter _ h)

/-- A foreign agent's write: pages are expanded, then the bytes are written where the page stands (R303, R306). -/
theorem mem_wf_writeForeignAt {s : State} (pa : Nat) (bs : List Byte) (h : Memory.wf s.mem = true) :
    Memory.wf (writeForeignAt pa bs s).mem = true := by
  have hf : ∀ (l : List (Nat × Leaf)) (t : State), Memory.wf t.mem = true → Memory.wf (l.foldl expandPage t).mem = true := by
    intro l
    induction l with
    | nil => exact fun _ h => h
    | cons e l ih => exact fun t h => ih _ (mem_wf_expandPage e h)
  exact Memory.wf_write _ (hf _ _ h)

/-- A word of a core tile that is lost writes no byte of memory (R311). -/
@[simp] theorem loseWord_mem (s : State) (w : TileWord) : (loseWord s w).mem = s.mem := by
  cases w <;> rfl

theorem mem_wf_coldReset (s : State) : Memory.wf (coldResetStep s).mem = true := by
  simp only [coldResetStep]
  split <;> exact Memory.wf_write _ rfl

theorem mem_wf_writeSave {s : State} (p : Nat) (r : Regs) (kind : Nat) (bskip : Bool) (trap : Nat × Nat × Nat)
    (grafts : List (Graft × Nat)) (h : Memory.wf s.mem = true) :
    Memory.wf (writeSave s p r kind bskip trap grafts).mem = true := by
  simp only [writeSave]
  split
  · exact h
  · exact Memory.wf_writeItems _ _ (Memory.wf_writeItems _ _ (Memory.wf_filter _ h))

/-- A byte outside a write reads as before. -/
theorem State.readByte_writeBytes_other {s : State} {bs : List (Nat × Byte)} {a : Nat} (h : Memory.wf s.mem = true)
    (ha : ∀ x ∈ bs, x.1 ≠ a) : (s.writeBytes bs).readByte a = s.readByte a :=
  Memory.get_write_other h ha

/-- A byte outside a number written reads as before. -/
theorem State.readByte_writeNat_other {s : State} {loc n v a : Nat} (h : Memory.wf s.mem = true)
    (ha : a < loc ∨ loc + (toBytes n v).length ≤ a) : (s.writeNat loc n v).readByte a = s.readByte a :=
  State.readByte_writeBytes_other h fun x hx => by have := bytesAt_bounds loc _ x hx; omega

/-- Replacing or changing a core leaves every byte. -/
@[simp] theorem State.readByte_setCore (s : State) (p : Nat) (c : Core) (a : Nat) :
    (s.setCore p c).readByte a = s.readByte a := rfl

@[simp] theorem State.readByte_onCore (s : State) (p : Nat) (f : Core → Core) (a : Nat) :
    (s.onCore p f).readByte a = s.readByte a := rfl

end Sys2Proof.Machine
end

