-- ==== Sys2Proof/Laws/Slot.lean ====
section
/-! SUPPORT. What the shared operations of a slot word do: the operations on the current core, the writes they put into flight, and the run of a word that issues undisturbed. -/

namespace Sys2Proof.Machine

/-! ### Operations that change one core -/

/-- An effect for the commit joins the open segment of its core. -/
@[simp] theorem addEffect_core (p : Nat) (e : Effect) (s : State) :
    (addEffect p e s).core p = { s.core p with seg := { (s.core p).seg with effects := (s.core p).seg.effects ++ [e] } } := by
  simp [addEffect]

/-- An implicit mark is asked for on its core. -/
@[simp] theorem markAfter_core (p : Nat) (s : State) : (markAfter p s).core p = { s.core p with markAfter := true } := by
  simp [markAfter]

/-- A check joins those that the open segment awaits. -/
@[simp] theorem addCheck_core (p : Nat) (k : Check) (s : State) :
    (addCheck p k s).core p = { s.core p with seg := { (s.core p).seg with checks := (s.core p).seg.checks ++ [k] } } := by
  simp [addCheck]

/-- A report joins those that the core will take at a mark. -/
@[simp] theorem addReport_core (p : Nat) (t : TrapRec) (s : State) :
    (addReport p t s).core p = { s.core p with async := (s.core p).async ++ [t] } := by
  simp [addReport]

/-- The first trap raised in a bundle is the one that stands. -/
theorem raiseAt_sync {s : State} {p : Nat} (cause sub : Nat) (info : Word) (h : (s.core p).sync = none) :
    ((raiseAt p cause sub info s).core p).sync = some ⟨cause, sub, (s.core p).work.pc, (s.core p).work.space, info⟩ := by
  simp only [raiseAt, State.core_onCore_same, h]

/-- A trap raised after another leaves everything as it is on the core. -/
theorem raiseAt_held {s : State} {p : Nat} {t : TrapRec} (cause sub : Nat) (info : Word) (h : (s.core p).sync = some t) :
    (raiseAt p cause sub info s).core p = s.core p := by
  simp only [raiseAt, State.core_onCore_same, h]

/-- A word without poisoned sources has its effect. -/
@[simp] theorem unlessPoisoned_false (x : Ctx) (k : State → State) (s : State) : unlessPoisoned x false k s = k s := rfl

/-- A word with a poisoned source traps POISON_USE. -/
@[simp] theorem unlessPoisoned_true (x : Ctx) (k : State → State) (s : State) :
    unlessPoisoned x true k s = raise x causePoison s := rfl

/-! ### Writes in flight -/

/-- A pending write joins those of its core and changes nothing else of it. -/
@[simp] theorem pushWrite_core (x : Ctx) (lat : Nat) (dest : Dest) (value : Vec) (f : Pending → Pending) (s : State) :
    (pushWrite x lat dest value f s).core x.p =
      (s.core x.p).addPend (f { (s.core x.p).work.write x.slot lat dest value with since := s.cyc.toNat }) := by
  simp [pushWrite]

/-- A result for s0 leaves its STAT bits alone. -/
theorem putS_zero (x : Ctx) (lat : Nat) (v : Word) (poison : Bool) (st : BitVec 6) (s : State) :
    putS x lat 0 v poison st s = pushStat x lat st s := rfl

/-- No STAT bit raised: nothing is put into flight. -/
@[simp] theorem pushStat_zero (x : Ctx) (lat : Nat) (s : State) : pushStat x lat 0 s = s := rfl

/-- No WARN bit raised: nothing is put into flight. -/
@[simp] theorem pushWarn_zero (x : Ctx) (s : State) : pushWarn x 0 s = s := rfl

/-- A result for any other S code is one pending write. -/
theorem putS_other {x : Ctx} {code : BitVec 6} (lat : Nat) (v : Word) (poison : Bool) (st : BitVec 6) (s : State)
    (h : code ≠ 0) : putS x lat code v poison st s =
      pushWrite x lat (.scalar code.toNat) ((if poison then 0 else v).setWidth 2048)
        (fun q => { q with poison := poison, stat := st }) s := by
  unfold putS
  rw [if_neg h]

/-- A result for p0 is discarded. -/
@[simp] theorem putP_zero (x : Ctx) (lat : Nat) (v mask : Word) (s : State) : putP x lat 0 v mask s = s := rfl

end Sys2Proof.Machine

namespace Sys2Proof.Safety

open Sys2Proof.Machine

/-- Nothing that the slots of a bundle at `pc` left on core `p` interrupts what follows them. -/
def Quiet (p : Nat) (pc : Word) (space : Bool) (s : State) : Prop :=
  (s.core p).sync = none ∧ (s.core p).seg.bad = none ∧ (s.core p).onlySret pc space = false

theorem quiet_of_calm {s : State} (h : calm s = true) : Quiet s.cur (s.core s.cur).work.pc (s.core s.cur).work.space s := by
  simp only [calm, Bool.and_eq_true, Option.isNone_iff_eq_none, Bool.not_eq_true'] at h
  exact ⟨h.1.1.1, h.1.2, h.2⟩

/-- A pending write disturbs nothing. -/
theorem quiet_pushWrite {x : Ctx} {s : State} {pc : Word} {space : Bool} (lat : Nat) (dest : Dest) (value : Vec) (f : Pending → Pending)
    (h : Quiet x.p pc space s) : Quiet x.p pc space (pushWrite x lat dest value f s) := by
  simpa [Quiet, Core.onlySret] using h

theorem quiet_pushStat {x : Ctx} {s : State} {pc : Word} {space : Bool} (lat : Nat) (st : BitVec 6) (h : Quiet x.p pc space s) :
    Quiet x.p pc space (pushStat x lat st s) := by
  unfold pushStat
  split
  · exact h
  · exact quiet_pushWrite _ _ _ _ h

theorem quiet_pushWarn {x : Ctx} {s : State} {pc : Word} {space : Bool} (w : BitVec 7) (h : Quiet x.p pc space s) : Quiet x.p pc space (pushWarn x w s) := by
  unfold pushWarn
  split
  · exact h
  · exact quiet_pushWrite _ _ _ _ h

theorem quiet_putS {x : Ctx} {s : State} {pc : Word} {space : Bool} (lat : Nat) (code : BitVec 6) (v : Word) (poison : Bool) (st : BitVec 6)
    (h : Quiet x.p pc space s) : Quiet x.p pc space (putS x lat code v poison st s) := by
  unfold putS
  split
  · exact quiet_pushStat _ _ h
  · exact quiet_pushWrite _ _ _ _ h

theorem quiet_putP {x : Ctx} {s : State} {pc : Word} {space : Bool} (lat n : Nat) (v mask : Word) (h : Quiet x.p pc space s) :
    Quiet x.p pc space (putP x lat n v mask s) := by
  unfold putP
  split
  · exact h
  · exact quiet_pushWrite _ _ _ _ h

theorem quiet_putV {x : Ctx} {s : State} {pc : Word} {space : Bool} (lat : Nat) (code : BitVec 6) (v : Vec) (mask : Word) (poison : Bool)
    (st : BitVec 6) (h : Quiet x.p pc space s) : Quiet x.p pc space (putV x lat code v mask poison st s) := by
  simp only [putV]
  split
  · exact quiet_pushStat _ _ h
  · split <;> exact quiet_pushWrite _ _ _ _ h

/-- What a pending write leaves of the state beside the core. -/
@[simp] theorem cur_pushWrite (x : Ctx) (lat : Nat) (dest : Dest) (value : Vec) (f : Pending → Pending) (s : State) :
    (pushWrite x lat dest value f s).cur = s.cur := rfl

@[simp] theorem cur_pushStat (x : Ctx) (lat : Nat) (st : BitVec 6) (s : State) : (pushStat x lat st s).cur = s.cur := by
  unfold pushStat; split <;> rfl

@[simp] theorem cur_pushWarn (x : Ctx) (w : BitVec 7) (s : State) : (pushWarn x w s).cur = s.cur := by
  unfold pushWarn; split <;> rfl

@[simp] theorem cur_putS (x : Ctx) (lat : Nat) (code : BitVec 6) (v : Word) (poison : Bool) (st : BitVec 6) (s : State) :
    (putS x lat code v poison st s).cur = s.cur := by
  unfold putS; split <;> simp

@[simp] theorem cur_putP (x : Ctx) (lat n : Nat) (v mask : Word) (s : State) : (putP x lat n v mask s).cur = s.cur := by
  unfold putP; split <;> simp

@[simp] theorem cur_putV (x : Ctx) (lat : Nat) (code : BitVec 6) (v : Vec) (mask : Word) (poison : Bool) (st : BitVec 6)
    (s : State) : (putV x lat code v mask poison st s).cur = s.cur := by
  simp only [putV]; split
  · exact cur_pushStat ..
  · split <;> rfl

/-- Nothing follows the slots where they leave the core quiet. -/
theorem settle_quiet {p : Nat} {before after : State} (h : Quiet p (before.core p).work.pc (before.core p).work.space after) : settle p before after = after := by
  obtain ⟨h1, h2, h3⟩ := h
  simp [settle, settleWith, h1, h2, h3]

/-- What runs of a word that passes its checks with a guard that lets it act (R70, R79, R82, R55). -/
theorem runSlot_issues {i : Instr} {f : Fields} {s : State} (body : Ctx → State → State) (h : issues i f s = true)
    (hc : (body (ctxOf i f s) (warned i f s)).cur = s.cur) :
    runSlot i f body s = counted i f (body (ctxOf i f s) (warned i f s)) := by
  simp only [issues, Bool.and_eq_true, Bool.or_eq_true, Bool.not_eq_true'] at h
  obtain ⟨⟨⟨h1, h2⟩, h3⟩, -⟩ := h
  have hg : (laneGated i (ctxOf i f s).f || (s.core (ctxOf i f s).p).work.guard f.g) = true := by
    exact (Bool.or_eq_true _ _).mpr h3
  have hp : (privileged i && !(s.core (ctxOf i f s).p).sup) = false := by
    rcases h2 with h2 | h2 <;> simp [ctxOf, h2]
  have e : runSlot i f body s = if isSR i f then
      (body (ctxOf i f s) (warned i f s)).onCore s.cur fun c => { c with srUsed := c.srUsed + 1 }
      else body (ctxOf i f s) (warned i f s) := by
    simp only [runSlot, h1, hp, hg, Bool.not_true, Bool.false_eq_true, if_false, if_true]
    rfl
  rw [e, counted, hc]

/-- A word that issues undisturbed and leaves the core quiet has its body's effect, its WARN bits and its use of the SR counters, and nothing else. -/
theorem slotExec_issues {i : Instr} {f : Fields} {s : State} (body : Ctx → State → State) (h : issues i f s = true)
    (hc : (body (ctxOf i f s) (warned i f s)).cur = s.cur)
    (hq : Quiet s.cur (s.core s.cur).work.pc (s.core s.cur).work.space (body (ctxOf i f s) (warned i f s))) :
    slotExec i f body s = counted i f (body (ctxOf i f s) (warned i f s)) := by
  unfold slotExec
  rw [runSlot_issues body h hc]
  apply settle_quiet
  unfold counted
  split
  · rw [hc]; simpa [Quiet, Core.onlySret] using hq
  · exact hq

end Sys2Proof.Safety
end

