-- ==== Sys2Proof/Laws/Trap.lean ====
section
/-! SUPPORT. What taking an exception, stopping a core, rolling back and returning from an exception do, once for all causes (R116, R259, R261, R262). -/

namespace Sys2Proof.Machine

/-- A save writes memory and what stands beside the area; no core changes. -/
@[simp] theorem writeSave_cores (s : State) (p : Nat) (r : Regs) (kind : Nat) (bskip : Bool) (trap : Nat × Nat × Nat)
    (grafts : List (Graft × Nat)) : (writeSave s p r kind bskip trap grafts).cores = s.cores := by
  simp only [writeSave]
  split <;> rfl

@[simp] theorem detachOps_cores (s : State) (p : Nat) : (detachOps s p).cores = s.cores := rfl

@[simp] theorem detachOps_mem (s : State) (p : Nat) : (detachOps s p).mem = s.mem := rfl

@[simp] theorem attachOps_cores (s : State) (p base : Nat) : (attachOps s p base).cores = s.cores := rfl

@[simp] theorem attachOps_mem (s : State) (p base : Nat) : (attachOps s p base).mem = s.mem := rfl

theorem State.core_congr {s t : State} (p : Nat) (h : t.cores = s.cores) : t.core p = s.core p := by
  simp only [State.core, h]

/-! ### Published stores -/

/-- A core whose three copies have the pending writes `w`, `m` and `k`. -/
def Core.withPend (c : Core) (w m k : List Pending) : Core :=
  { c with work := { c.work with pend := w }, mark := { c.mark with pend := m }, com := { c.com with pend := k } }

/-- A state whose cores differ from those of `s` in no more than what loads at core `p`'s banks keep. -/
def keepsCores (p : Nat) (s t : State) : Prop :=
  (∃ w m k, t.core p = (s.core p).withPend w m k) ∧ ∀ q, q ≠ p → t.core q = s.core q

theorem keepsCores_refl (p : Nat) (s : State) : keepsCores p s s := ⟨⟨_, _, _, rfl⟩, fun _ _ => rfl⟩

theorem keepsCores_performStore {p : Nat} {s t : State} (e : CaskEntry) (h : keepsCores p s t) : keepsCores p s (performStore p e t) := by
  obtain ⟨⟨w, m, k, hc⟩, ho⟩ := h
  refine ⟨?_, fun q hq => ?_⟩
  · rw [State.core_congr (s := keepBytes p e.bno e.bytes t) (t := performStore p e t) p rfl]
    simp only [keepBytes, State.core_onCore_same, hc]
    exact ⟨_, _, _, rfl⟩
  · rw [State.core_congr (s := keepBytes p e.bno e.bytes t) (t := performStore p e t) q rfl]
    simp only [keepBytes]
    rw [State.core_onCore_other _ hq, ho q hq]

/-- One store of a flush is performed, or waits on. -/
theorem flushStores_fold (p : Nat) (s : State) (l : List CaskEntry) :
    ∀ acc : State × List CaskEntry, keepsCores p s acc.1 ∧ Memory.wf acc.1.mem = true →
      let r := l.foldl (fun (acc : State × List CaskEntry) e =>
        if acc.1.flushHolds p acc.2 e then (acc.1, acc.2 ++ [e]) else (performStore p e acc.1, acc.2)) acc
      keepsCores p s r.1 ∧ Memory.wf r.1.mem = true := by
  induction l with
  | nil => exact fun _ h => h
  | cons e l ih =>
    intro acc h
    refine ih _ ?_
    dsimp only
    split
    · exact h
    · exact ⟨keepsCores_performStore e h.1, mem_wf_performStore p e h.2⟩

/-- A flush changes of its core the stores that wait and what the loads keep, and nothing of another; memory keeps its form (R128, R132). -/
theorem flushStores_spec {s : State} (p : Nat) (hm : Memory.wf s.mem = true) :
    (∃ w m k h, (flushStores p s).core p = { (s.core p).withPend w m k with heldStores := h }) ∧
      (∀ q, q ≠ p → (flushStores p s).core q = s.core q) ∧ Memory.wf (flushStores p s).mem = true := by
  obtain ⟨⟨⟨w, m, k, hc⟩, ho⟩, hw⟩ := flushStores_fold p s (s.core p).heldStores (s, []) ⟨keepsCores_refl p s, hm⟩
  refine ⟨?_, fun q hq => ?_, ?_⟩
  · have e : (flushStores p s).core p = _ := State.core_onCore_same ..
    rw [hc] at e
    exact ⟨w, m, k, _, e⟩
  · simp only [flushStores]
    rw [State.core_onCore_other _ hq, ho q hq]
  · exact hw

/-- The same of the flush that a save or a return begins with. -/
theorem settleStores_spec {s : State} (p : Nat) (hm : Memory.wf s.mem = true) :
    (∃ w m k h, (settleStores p s).core p = { (s.core p).withPend w m k with heldStores := h }) ∧
      (∀ q, q ≠ p → (settleStores p s).core q = s.core q) ∧ Memory.wf (settleStores p s).mem = true := by
  obtain ⟨⟨w, m, k, h, hc⟩, ho, hw⟩ := flushStores_spec (s := s.onCore p fun c =>
    { c with heldStores := c.heldStores.map fun e => { e with visAt := 0 } }) p hm
  refine ⟨⟨w, m, k, h, ?_⟩, fun q hq => ?_, hw⟩
  · rw [State.core_onCore_same] at hc
    exact hc
  · simp only [settleStores]
    rw [ho q hq, State.core_onCore_other _ hq]

/-! ### Taking a trap -/

/-- A trap at task level with a handler: the uncommitted segments are gone, the trap registers hold the trap, the core runs at supervisor level from SVEC in .text with the handler's registers, and a new segment is open there (R259, R261). -/
theorem takeTrap_core {s : State} {p : Nat} (bskip : Bool) (t : TrapRec) (hs : (s.core p).sup = false)
    (hv : (s.core p).svec ≠ 0) (hm : Memory.wf s.mem = true) :
    ∃ h, (takeTrap s p bskip t).core p =
      { (((s.core p).discard.recallGrafts (s.imageOf (s.core p)).routines s.cyc.toNat).setTrap t) with
        heldStores := h
        work := handlerRegs (s.core p).com (s.core p).svec
        mark := handlerRegs (s.core p).com (s.core p).svec
        com := handlerRegs (s.core p).com (s.core p).svec
        seg := Segment.opened (s.core p).svec false
        reserved := (s.core p).discard.reserved - ((s.core p).discard.recallGrafts (s.imageOf (s.core p)).routines s.cyc.toNat).callRequests
        callQ := none
        sup := true
        run := .running
        grafts := []
        value := []
        heldValue := []
        valueBack := []
        async := []
        comp := none
        bskip := false } := by
  have hc : ((s.core p).sup || decide ((s.core p).svec = 0)) = false := by
    rw [hs]; exact decide_eq_false hv
  simp only [takeTrap, hc, Bool.false_eq_true, if_false, State.core_onCore_same]
  rw [State.core_congr p (detachOps_cores _ _), State.core_congr p (writeSave_cores ..)]
  obtain ⟨⟨w, m, k, h, e⟩, -⟩ := settleStores_spec (s := s.setCore p ((s.core p).discard.recallGrafts (s.imageOf (s.core p)).routines s.cyc.toNat)) p hm
  exact ⟨h, by rw [e, State.core_setCore_same]; rfl⟩

/-- A trap at supervisor level, or with no handler, stops the core and is reported (R261). -/
theorem takeTrap_stops {s : State} {p : Nat} (bskip : Bool) (t : TrapRec)
    (h : (s.core p).sup = true ∨ (s.core p).svec = 0) : takeTrap s p bskip t = stopCore s p t := by
  have hc : ((s.core p).sup || decide ((s.core p).svec = 0)) = true := by
    rcases h with h | h <;> simp [h]
  simp only [takeTrap, hc, if_true]

/-- A stopped core: its segments are gone, the trap registers hold the trap. -/
theorem stopCore_core (s : State) (p : Nat) (t : TrapRec) :
    (stopCore s p t).core p = ({ (s.core p).discard with run := .stopped } : Core).setTrap t := by
  simp only [stopCore]
  exact State.core_setCore_same _ _ _

/-- A stopped core keeps memory in its form. -/
theorem mem_wf_stopCore {s : State} (p : Nat) (t : TrapRec) (h : Memory.wf s.mem = true) :
    Memory.wf (stopCore s p t).mem = true := by
  simp only [stopCore, State.setCore_mem]
  split
  · exact State.mem_wf_writeNat _ _ _ h
  · exact h

/-- Taking a trap keeps memory in its form. -/
theorem mem_wf_takeTrap {s : State} (p : Nat) (bskip : Bool) (t : TrapRec) (h : Memory.wf s.mem = true) :
    Memory.wf (takeTrap s p bskip t).mem = true := by
  simp only [takeTrap]
  split
  · exact mem_wf_stopCore p t h
  · simp only [State.onCore_mem, detachOps_mem]
    exact mem_wf_writeSave _ _ _ _ _ _ (settleStores_spec (s := s.setCore p ((s.core p).discard.recallGrafts (s.imageOf (s.core p)).routines s.cyc.toNat)) p h).2.2

/-- A context that comes back changes no byte of memory. -/
@[simp] theorem restoreContext_mem (s : State) (p base : Nat) : (restoreContext s p base).mem = s.mem := by
  have hf : ∀ (l : List ValueReq) (t : State), (l.foldl (againWait p) t).mem = t.mem := by
    intro l
    induction l with
    | nil => exact fun _ => rfl
    | cons v l ih =>
      intro t
      rw [List.foldl_cons, ih]
      unfold againWait
      split <;> rfl
  simp only [restoreContext, State.onCore_mem, attachOps_mem, hf]

/-- Returning from an exception keeps memory in its form. -/
theorem mem_wf_returnFromTrap {s : State} (p : Nat) (pc : Word) (space : Bool) (h : Memory.wf s.mem = true) :
    Memory.wf (returnFromTrap s p pc space).mem = true := by
  have h := (settleStores_spec p h).2.2
  simp only [returnFromTrap]
  split
  · exact mem_wf_stopCore _ _ h
  · repeat' split
    all_goals first | exact mem_wf_stopCore _ _ h | simpa using h

/-- A rollback writes no byte of memory. -/
@[simp] theorem rollback_mem (s : State) (p : Nat) : (rollback s p).mem = s.mem := by
  simp only [rollback]
  split <;> simp

/-- A rollback leaves the committed copy in all three copies, and issue waits (R116). -/
theorem rollback_core (s : State) (p : Nat) :
    ((rollback s p).core p).work = (s.core p).com ∧ ((rollback s p).core p).mark = (s.core p).com ∧
      ((rollback s p).core p).com = (s.core p).com ∧ ((rollback s p).core p).pending = none ∧
      ((rollback s p).core p).restarting = true ∧ ((rollback s p).core p).holdUntil = s.cyc.toNat + 8 := by
  have e : (rollback s p).core p =
      { (s.core p).discard with
        rolls := (s.core p).rolls + 1
        restarting := true
        holdUntil := s.cyc.toNat + 8
        turnAt := s.cyc.toNat + 8
        repAt := s.cyc.toNat + 8
        grafts := (s.core p).grafts.map fun (k, g) => (k, { g with stopped := false }) } := by
    rw [State.core_congr (s := s.setCore p _) p]
    · exact State.core_setCore_same _ _ _
    · simp only [rollback]
      split <;> rfl
  rw [e]
  exact ⟨rfl, rfl, rfl, rfl, rfl, rfl⟩

end Sys2Proof.Machine
end

