-- ==== Sys2Proof/Tests/Slice0.lean ====
section
/-! SUPPORT. The model's own tests: what the well-formedness check refuses, words of the spec's encodings, number formats, one step of an instruction at a time, and for every statement states and operands that meet its hypotheses. -/

set_option Elab.async false

namespace Sys2Proof.Tests

open Sys2Proof Sys2Proof.Machine Sys2Proof.Safety

/-! ### States for the tests -/

/-- The reset state with core 0 changed. -/
def st (f : Core → Core) : State := State.reset.onCore 0 f

/-- Core 0 with some S codes set. -/
def regs (sc : Store Word) : State := st fun c => { c with work := { c.work with sc := sc } }

/-- Core 0 with some vectors set. -/
def vecs (v : Store Vec) : State := st fun c => { c with work := { c.work with v := v } }

/-- Core 0 with every bank of its barrel. -/
def banked (sc : Store Word) : State := st fun c => { c with work := { c.work with sc := sc }, bown := BitVec.allOnes 32 }

/-- Core 0 at supervisor level. -/
def privilegedState : State := st fun c => { c with sup := true }

/-- The state after one instruction. -/
def after (i : Instr) (s : State) : State :=
  match exec i s with
  | .next t => t
  | _ => s

/-- The last pending write of core 0. -/
def lastWrite (s : State) : Option Pending := (s.core 0).work.pend.getLast?

/-- What the last pending write of core 0 holds: destination, value and bundles until it is visible. -/
def written (s : State) : Option (Dest × Nat × Nat) := (lastWrite s).map fun q => (q.dest, q.value.toNat, q.vis)

/-- The cause of the trap that core 0 holds or has stopped with. -/
def trapCause (s : State) : Nat := (s.core 0).tcause.toNat

/-! ### What the well-formedness check refuses (R72, R78, R154) -/

theorem test_wf_add : Instr.wellFormed (.add ⟨1, 2, 3, 0, 0⟩) = true := by decide
theorem test_wf_reserved_source : Instr.wellFormed (.add ⟨1, 60, 3, 0, 0⟩) = false := by decide
theorem test_wf_reserved_destination : Instr.wellFormed (.add ⟨61, 2, 3, 0, 0⟩) = false := by decide
theorem test_wf_address_operand : Instr.wellFormed (.ld ⟨3, 8, 0, 0, 2⟩) = false := by decide
theorem test_wf_spelling : Instr.wellFormed (.mov ⟨1, 62, 0, 0, 0⟩) = false := by decide
theorem test_wf_spelling_li : Instr.wellFormed (.li ⟨1, 62, 0, 0, 0⟩) = true := by decide
theorem test_wf_spelling_jmp : Instr.wellFormed (.jmp ⟨0, 47, 0, 0, 0⟩) = false := by decide
theorem test_wf_vector_source : Instr.wellFormed (.vadd .v0 ⟨9, 56, 10, 0, 2⟩) = false := by decide
theorem test_wf_vector_format : Instr.wellFormed (.vadd .v0 ⟨9, 9, 10, 0, 9⟩) = false := by decide
theorem test_wf_vector_float_format : Instr.wellFormed (.vfadd .v0 ⟨9, 9, 10, 0, 2⟩) = false := by decide
theorem test_wf_scale_destination : Instr.wellFormed (.vlde .v0 ⟨9, 1, 0, 0, 0⟩) = false := by decide

/-! ### Words of the spec's examples and encodings -/

/-- R156's example: s (p2) sub.ss s7, s7, s9. -/
theorem test_decode_sub : decodeSlot 1 0x0871C921#32 = .ok (.sub ⟨7, 7, 9, 2, 1⟩) := by decide
/-- ld.w.s s3, [a2 + 64]: OP 0x12, D 3, A 34, B the literal, F sign and width. -/
theorem test_decode_ld : decodeSlot 1 0x4838BE06#32 = .ok (.ld ⟨3, 34, 62, 0, 6⟩) := by decide
/-- br 8 bundles back: the 18-bit displacement −8. -/
theorem test_decode_br : decodeSlot 1 0x5FFFF800#32 = .ok (.br ⟨63, 63, 56, 0, 0⟩) := by decide
theorem test_decode_loop : decodeSlot 1 0x68B14103#32 = .ok (.loop ⟨11, 5, 1, 0, 3⟩) := by decide
theorem test_decode_vadd : decodeSlot 2 0x04924A52#32 = .ok (.vadd .v0 ⟨9, 9, 10, 5, 2⟩) := by decide
theorem test_decode_vldt : decodeSlot 3 0x8850E800#32 = .ok (.vldt .v1 ⟨5, 3, 40, 0, 0⟩) := by decide
/-- R203's example: v0 plog.andn p4, p4, p5. -/
theorem test_decode_plog : decodeSlot 2 0xA4410503#32 = .ok (.plog .v0 ⟨4, 4, 5, 0, 3⟩) := by decide
theorem test_decode_zclr : decodeSlot 4 0x0C400000#32 = .ok (.zclr ⟨4, 0, 0, 0, 0⟩) := by decide
theorem test_decode_opa : decodeSlot 4 0x0491A90A#32 = .ok (.opa ⟨9, 6, 41, 0, 10⟩) := by decide
theorem test_decode_txq : decodeSlot 4 0x2098C501#32 = .ok (.txq ⟨9, 35, 5, 0, 1⟩) := by decide
theorem test_decode_cpy : decodeSlot 5 0x05030000#32 = .ok (.cpy .c0 ⟨16, 12, 0, 0, 0⟩) := by decide
theorem test_decode_drain : decodeSlot 6 0x25100001#32 = .ok (.drain .c1 ⟨17, 0, 0, 0, 1⟩) := by decide
theorem test_decode_vst : decodeSlot 3 0x84914828#32 = .ok (.vst .v1 ⟨9, 5, 8, 2, 8⟩) := by decide
theorem test_decode_nop : decodeSlot 7 0#32 = .ok (.nop ⟨0, 0, 0, 0, 0⟩) := by decide
theorem test_decode_cmpt : decodeSlot 7 0x04000000#32 = .ok (.cmpt ⟨0, 0, 0, 0, 0⟩) := by decide
theorem test_decode_reserved : decodeSlot 4 0x24000000#32 = .error (.reservedOpcode 4 9) := by decide
theorem test_decode_table_word : decodeTableWord 32 0x0871C921 = some (.sub ⟨7, 7, 9, 2, 1⟩) := by decide
/-- Table 4.2: WAIT in w0[31:16], CF 15, MK 14, RZ 13, LX 3. -/
theorem test_header : headerOf 0x0102C008#256 = ⟨0x0102, true, true, false, true, false⟩ := by decide

/-! ### Number formats (Table 3.7, R56, R63) -/

theorem test_one_f32 : FloatFmt.f32.round .rne (XReal.ofInt 1) = (0x3F800000, 0) := by decide +kernel
theorem test_minus_two_bf16 : FloatFmt.bf16.round .rne (XReal.ofInt (-2)) = (0xC000, 0) := by decide +kernel
theorem test_448_f8e4 : FloatFmt.f8e4.round .rne (XReal.ofInt 448) = (0x7E, 0) := by decide +kernel
theorem test_one_f16 : FloatFmt.f16.round .rne (XReal.ofInt 1) = (0x3C00, 0) := by decide +kernel
theorem test_order_nan : ordering .f32 0x7FC00000 0x3F800000 = none := by decide +kernel
/-- R63's worked example: w0 = 504, w1 = 506, w2 = 507 and the check residue 502 stand for −5. -/
theorem test_residue_value : Cell.value ⟨0, 504, 506, 507, 502, 1, false⟩ = -5 := by decide +kernel
theorem test_residue_agrees : Cell.disagrees ⟨0, 504, 506, 507, 502, 1, false⟩ = false := by decide +kernel
/-- The same with w2 = 506: −44,476,934, which the check residue refutes. -/
theorem test_residue_wrong : Cell.value ⟨0, 504, 506, 506, 502, 1, false⟩ = -44476934 := by decide +kernel
theorem test_residue_disagrees : Cell.disagrees ⟨0, 504, 506, 506, 502, 1, false⟩ = true := by decide +kernel

/-! ### One instruction at a time -/

theorem test_add : written (after (.add ⟨1, 2, 3, 0, 0⟩) (regs [(2, 5), (3, 7)])) = some (.scalar 1, 12, 1) := by decide +kernel
theorem test_add_wraps : written (after (.add ⟨1, 2, 2, 0, 0⟩) (regs [(2, 0x8000000000000000)])) = some (.scalar 1, 0, 1) := by decide +kernel
/-- Signed saturation: −2^63 − 1 stays −2^63. -/
theorem test_sub_saturates : written (after (.sub ⟨1, 2, 3, 0, 1⟩) (regs [(2, 0x8000000000000000), (3, 1)])) = some (.scalar 1, 0x8000000000000000, 1) := by
  decide +kernel
theorem test_sub_unsigned_clamps : written (after (.sub ⟨1, 2, 3, 0, 2⟩) (regs [(2, 3), (3, 5)])) = some (.scalar 1, 0, 1) := by decide +kernel
theorem test_andn : written (after (.andn ⟨1, 2, 3, 0, 0⟩) (regs [(2, 0xFF), (3, 0x0F)])) = some (.scalar 1, 0xF0, 1) := by decide +kernel
theorem test_shr_arithmetic : written (after (.shr ⟨1, 2, 3, 0, 1⟩) (regs [(2, 0x8000000000000000), (3, 63)])) = some (.scalar 1, 0xFFFFFFFFFFFFFFFF, 1) := by
  decide +kernel
theorem test_shl_count : written (after (.shl ⟨1, 2, 3, 0, 0⟩) (regs [(2, 1), (3, 65)])) = some (.scalar 1, 2, 1) := by decide +kernel
theorem test_mul_high : written (after (.mul ⟨1, 2, 3, 0, 1⟩) (regs [(2, 0xFFFFFFFFFFFFFFFF), (3, 2)])) = some (.scalar 1, 0xFFFFFFFFFFFFFFFF, 3) := by
  decide +kernel
/-- R156: −7 rem 2 is −1. -/
theorem test_div_remainder_sign : written (after (.div ⟨1, 2, 3, 0, 3⟩) (regs [(2, 0xFFFFFFFFFFFFFFF9), (3, 2)])) = some (.scalar 1, 0xFFFFFFFFFFFFFFFF, 20) := by
  decide +kernel
theorem test_div_zero : (lastWrite (after (.div ⟨1, 2, 3, 0, 0⟩) (regs [(2, 9)]))).map (fun q => (q.value.toNat, q.stat == statDZ)) =
    some (0xFFFFFFFFFFFFFFFF, true) := by decide +kernel
theorem test_bitc_zeros : written (after (.bitc ⟨1, 2, 0, 0, 1⟩) (regs [(2, 1)])) = some (.scalar 1, 63, 1) := by decide +kernel
theorem test_bitc_of_zero : written (after (.bitc ⟨1, 0, 0, 0, 2⟩) (regs [])) = some (.scalar 1, 64, 1) := by decide +kernel
theorem test_cmp_signed : written (after (.cmp ⟨4, 2, 3, 0, 2⟩) (regs [(2, 0xFFFFFFFFFFFFFFFF), (3, 1)])) = some (.pred 4, 0xFFFFFFFFFFFFFFFF, 1) := by
  decide +kernel
theorem test_cmp_p0 : written (after (.cmp ⟨0, 2, 3, 0, 0⟩) (regs [])) = none := by decide +kernel
theorem test_discarded_write : (after (.add ⟨0, 2, 3, 0, 0⟩) (regs [(2, 5)])).core 0 = (regs [(2, 5)]).core 0 := by decide +kernel
theorem test_false_guard : (after (.add ⟨1, 2, 3, 9, 0⟩) (regs [(2, 5)])).core 0 = (regs [(2, 5)]).core 0 := by decide +kernel
theorem test_aadd_scale : written (after (.aadd ⟨33, 34, 2, 0, 13⟩) (regs [(2, 3), (34, 0x100)])) = some (.scalar 33, 0x118, 1) := by decide +kernel
/-- f32: 1 + 2^-24 rounds to even. -/
theorem test_fadd_rounds : written (after (.fadd ⟨1, 2, 3, 0, 0⟩) (regs [(2, 0x3F800000), (3, 0x33800000)])) = some (.scalar 1, 0x3F800000, 4) := by
  decide +kernel
theorem test_fcmp_nan : written (after (.fcmp ⟨4, 2, 2, 0, 1⟩) (regs [(2, 0x7FC00000)])) = some (.pred 4, 0xFFFFFFFFFFFFFFFF, 4) := by decide +kernel
/-- A store and a load in one bundle: the load does not see the store (R93, R111). -/
theorem test_store_waits : ((after (.st ⟨2, 33, 0, 0, 3⟩) (banked [(2, 0x1234), (33, 0x40)])).core 0).seg.stores.length = 1 := by decide +kernel
theorem test_store_bytes : (((after (.st ⟨2, 33, 0, 0, 1⟩) (banked [(2, 0x123456), (33, 0x40)])).core 0).seg.stores.map (·.bytes)) =
    [[(coreLoc 0 0x40, 0x56), (coreLoc 0 0x41, 0x34)]] := by decide +kernel
theorem test_load_misaligned : trapCause (after (.ld ⟨1, 33, 0, 0, 3⟩) (banked [(33, 0x41)])) = 5 := by decide +kernel
theorem test_load_foreign_bank : trapCause (after (.ld ⟨1, 33, 0, 0, 3⟩) (regs [(33, 0x40)])) = 4 := by decide +kernel
theorem test_branch_shadow : ((after (.br ⟨63, 63, 56, 0, 0⟩) (st fun c => { c with work := { c.work with pc := 0x200 } })).core 0).work.brq =
    [⟨0x100, 4, 0x200⟩] := by decide +kernel
theorem test_loop_zero : ((after (.loop ⟨11, 5, 1, 0, 0⟩) (regs [])).core 0).skipTo = some 0x1A0 := by decide +kernel
theorem test_trap : trapCause (after (.trap ⟨0, 2, 0, 0, 0⟩) (regs [(2, 3)])) = 0x60B := by decide +kernel
theorem test_halt_privileged : trapCause (after (.halt ⟨0, 0, 0, 0, 0⟩) State.reset) = 0x0C := by decide +kernel
theorem test_halt : ((after (.halt ⟨0, 0, 0, 0, 0⟩) privilegedState).core 0).markAfter = true := by decide +kernel
/-- VADD.I8: 255 + 1 wraps inside its element. -/
theorem test_vadd_wraps : written (after (.vadd .v0 ⟨3, 1, 2, 0, 0⟩) (vecs [(1, 0xFF), (2, 0x01)])) = some (.vector ((State.reset.core 0).work.physV 3), 0, 2) := by
  decide +kernel
theorem test_vadd_masked : (lastWrite (after (.vadd .v0 ⟨3, 1, 2, 4, 0⟩) (st fun c => { c with work := { c.work with p := [(4, 1)] } }))).map (·.mask) =
    some 1 := by decide +kernel
theorem test_plog : written (after (.plog .v0 ⟨4, 4, 5, 0, 3⟩) (st fun c => { c with work := { c.work with p := [(4, 6), (5, 2)] } })) =
    some (.pred 4, 4, 2) := by decide +kernel
theorem test_opa_segv : trapCause (after (.opa ⟨1, 6, 41, 0, 10⟩) (regs [(41, 0x7FF80)])) = 3 := by decide +kernel
theorem test_opar_none : ((after (.opar ⟨1, 6, 41, 0, 10⟩) (regs [])).core 0).seg.opas = [] := by decide +kernel
theorem test_zclr : ((after (.zclr ⟨4, 0, 0, 0, 0⟩) State.reset).core 0).seg.opas = [(0, .zclr false 4)] := by decide +kernel
theorem test_cpy_flag : (((after (.cpy .c0 ⟨18, 12, 0, 0, 0⟩) (st fun c => { c with work := { c.work with flags := 0xFFFF } })).core 0).work.flags,
    ((after (.cpy .c0 ⟨18, 12, 0, 0, 0⟩) State.reset).core 0).reserved) = (0xFFFB, 1) := by decide +kernel
theorem test_poison_traps : trapCause (after (.cmp ⟨4, 2, 3, 0, 0⟩) (st fun c => { c with work := { c.work with poison := 4 } })) = 6 := by decide +kernel
theorem test_reset_form : Memory.wf State.reset.mem = true := by decide
theorem test_step_at_reset : (match step State.reset with
    | .next t => decide (t = { State.reset with cyc := 256, gstep := 1, tickEnd := 512, free := 1 })
    | _ => false) = true := by decide +kernel

end Sys2Proof.Tests
end

