-- ==== Sys2Proof/Tests/Witness.lean ====
section
/-! SUPPORT. For every statement with hypotheses, states and operands that meet them, clause by clause. -/

set_option Elab.async false

namespace Sys2Proof.Tests

open Sys2Proof Sys2Proof.Machine Sys2Proof.Safety

/-- The word issues with operands that it may use. -/
def ready1 (i : Instr) (f : Fields) (s : State) : Bool :=
  decide (slotFields i = some f) && issues i f s && !poisonUse i f s

/-- Core 0 with some poisoned S codes. -/
def poisonedState (m : Word) : State := st fun c => { c with work := { c.work with poison := m } }

/-- Core 0 with poisoned vector registers. -/
def poisonedVecs (m : Word) : State := st fun c => { c with work := { c.work with vpoison := m } }

/-! ### Words of the S and X slots -/

theorem wit_NoEffect : calm State.reset = true ∧ slotFields (.add ⟨1, 2, 3, 9, 0⟩) = some ⟨1, 2, 3, 9, 0⟩ ∧ operandsOk (.add ⟨1, 2, 3, 9, 0⟩) = true ∧
    privileged (.add ⟨1, 2, 3, 9, 0⟩) = false ∧ laneGated (.add ⟨1, 2, 3, 9, 0⟩) (read (.add ⟨1, 2, 3, 9, 0⟩) ⟨1, 2, 3, 9, 0⟩) = false ∧
    (State.reset.core 0).work.guard 9 = false := by decide +kernel

theorem wit_IntegerRowResult : ready1 (.sub ⟨1, 2, 3, 0, 1⟩) ⟨1, 2, 3, 0, 1⟩ (regs [(2, 5), (3, 7)]) = true ∧
    (tableInt (.sub ⟨1, 2, 3, 0, 1⟩) 1 5 7).isSome = true := by decide +kernel

theorem wit_DivisionCases_zero : ready1 (.div ⟨1, 2, 3, 0, 0⟩) ⟨1, 2, 3, 0, 0⟩ (regs [(2, 5)]) = true ∧ valueS (regs [(2, 5)]) 3 = 0 := by
  decide +kernel
theorem wit_DivisionCases_remainder : ready1 (.div ⟨1, 2, 3, 0, 2⟩) ⟨1, 2, 3, 0, 2⟩ (regs [(2, 5), (3, 2)]) = true ∧
    2 ≤ (read (.div ⟨1, 2, 3, 0, 2⟩) ⟨1, 2, 3, 0, 2⟩).f.toNat ∧ valueS (regs [(2, 5), (3, 2)]) 3 ≠ 0 := by decide +kernel
theorem wit_DivisionCases_least :
    let s := regs [(2, 0x8000000000000000), (3, 0xFFFFFFFFFFFFFFFF)]
    ready1 (.div ⟨1, 2, 3, 0, 1⟩) ⟨1, 2, 3, 0, 1⟩ s = true ∧ (read (.div ⟨1, 2, 3, 0, 1⟩) ⟨1, 2, 3, 0, 1⟩).f.toNat % 2 = 1 ∧
      valueS s 2 = BitVec.ofInt 64 (-2 ^ 63) ∧ valueS s 3 = BitVec.ofInt 64 (-1) := by decide +kernel

theorem wit_CompareAndSelect_poison : issues (.cmp ⟨4, 2, 3, 0, 0⟩) ⟨4, 2, 3, 0, 0⟩ (poisonedState 4) = true ∧
    poisonUse (.cmp ⟨4, 2, 3, 0, 0⟩) ⟨4, 2, 3, 0, 0⟩ (poisonedState 4) = true := by decide +kernel
theorem wit_CompareAndSelect_p0 : ready1 (.cmp ⟨0, 2, 3, 0, 0⟩) ⟨0, 2, 3, 0, 0⟩ State.reset = true := by decide +kernel
theorem wit_CompareAndSelect_true : ready1 (.cmp ⟨15, 2, 3, 0, 9⟩) ⟨15, 2, 3, 0, 9⟩ (regs [(2, 1)]) = true ∧
    tableCond (read (.cmp ⟨15, 2, 3, 0, 9⟩) ⟨15, 2, 3, 0, 9⟩).f (valueS (regs [(2, 1)]) 2) (valueS (regs [(2, 1)]) 3) :=
  ⟨by decide +kernel, by show (0 : Word).toNat < (1 : Word).toNat; decide⟩
theorem wit_CompareAndSelect_false : ready1 (.cmp ⟨15, 2, 3, 0, 0⟩) ⟨15, 2, 3, 0, 0⟩ (regs [(2, 1)]) = true ∧
    ¬ tableCond (read (.cmp ⟨15, 2, 3, 0, 0⟩) ⟨15, 2, 3, 0, 0⟩).f (valueS (regs [(2, 1)]) 2) (valueS (regs [(2, 1)]) 3) :=
  ⟨by decide +kernel, by show ¬ (1 : Word) = 0; decide⟩
theorem wit_CompareAndSelect_sel : ready1 (.sel ⟨1, 2, 3, 0, 4⟩) ⟨1, 2, 3, 0, 4⟩ State.reset = true := by decide +kernel

theorem wit_DuplicateAlu_arith : ready1 (.xalu ⟨1, 2, 3, 0, 7⟩) ⟨1, 2, 3, 0, 7⟩ State.reset = true ∧
    (read (.xalu ⟨1, 2, 3, 0, 7⟩) ⟨1, 2, 3, 0, 7⟩).f.toNat < 8 := by decide +kernel
theorem wit_DuplicateAlu_compare : ready1 (.xalu ⟨4, 2, 3, 0, 8⟩) ⟨4, 2, 3, 0, 8⟩ State.reset = true ∧
    8 ≤ (read (.xalu ⟨4, 2, 3, 0, 8⟩) ⟨4, 2, 3, 0, 8⟩).f.toNat ∧ tableCond 0 (0 : Word) (0 : Word) :=
  ⟨by decide +kernel, by decide +kernel, by show (0 : Word) = 0; rfl⟩

theorem wit_MoveResult : ready1 (.mov ⟨47, 2, 0, 0, 3⟩) ⟨47, 2, 0, 0, 3⟩ State.reset = true ∧ ready1 (.li ⟨1, 62, 0, 0, 0⟩) ⟨1, 62, 0, 0, 0⟩ State.reset = true ∧
    ready1 (.aadd ⟨32, 33, 2, 0, 15⟩) ⟨32, 33, 2, 0, 15⟩ State.reset = true := by decide +kernel

theorem wit_ScalarFloatResult : ready1 (.fadd ⟨1, 2, 3, 0, 0⟩) ⟨1, 2, 3, 0, 0⟩ State.reset = true ∧
    ready1 (.fmul ⟨1, 2, 3, 0, 1⟩) ⟨1, 2, 3, 0, 1⟩ State.reset = true ∧ ready1 (.fma ⟨1, 2, 3, 0, 7⟩) ⟨1, 2, 3, 0, 7⟩ State.reset = true ∧
    ready1 (.fcvt ⟨1, 2, 8, 0, 0⟩) ⟨1, 2, 8, 0, 0⟩ State.reset = true := by decide +kernel

theorem wit_FloatCompare : ready1 (.fcmp ⟨0, 2, 3, 0, 0⟩) ⟨0, 2, 3, 0, 0⟩ State.reset = true ∧ ready1 (.fcmp ⟨4, 2, 3, 0, 6⟩) ⟨4, 2, 3, 0, 6⟩ State.reset = true ∧
    issues (.fcmp ⟨4, 2, 3, 0, 0⟩) ⟨4, 2, 3, 0, 0⟩ (poisonedState 4) = true ∧
    poisonUse (.fcmp ⟨4, 2, 3, 0, 0⟩) ⟨4, 2, 3, 0, 0⟩ (poisonedState 4) = true := by decide +kernel

theorem wit_ScalarLoad_ld : ready1 (.ld ⟨1, 33, 0, 0, 3⟩) ⟨1, 33, 0, 0, 3⟩ (banked [(33, 64)]) = true ∧
    scalarAccess (.ld ⟨1, 33, 0, 0, 3⟩) ⟨1, 33, 0, 0, 3⟩ (banked [(33, 64)]) = some (64, 8, false) ∧
    access (banked [(33, 64)]) 0 64 8 8 false = .ok (coreLoc 0 64) := by decide +kernel
theorem wit_ScalarLoad_ldt : ready1 (.ldt ⟨0, 33, 9, 0, 3⟩) ⟨0, 33, 9, 0, 3⟩ (banked [(33, 0x7FFF8)]) = true ∧
    scalarAccess (.ldt ⟨0, 33, 9, 0, 3⟩) ⟨0, 33, 9, 0, 3⟩ (banked [(33, 0x7FFF8)]) = some (0x7FFF8, 8, false) ∧
    access (banked [(33, 0x7FFF8)]) 0 0x7FFF8 8 8 false = .ok (coreLoc 0 0x7FFF8) := by decide +kernel
theorem wit_ScalarLoad_speculative : ready1 (.ldx ⟨1, 33, 0, 0, 3⟩) ⟨1, 33, 0, 0, 3⟩ (banked [(33, 64)]) = true ∧
    access (banked [(33, 64)]) 0 64 8 8 false = .ok (coreLoc 0 64) ∧ (banked [(33, 64)]).loadBad 0 (coreLoc 0 64) = false ∧
    access (banked [(33, 65)]) 0 65 8 8 false = .error .misalign ∧ access (regs [(33, 64)]) 0 64 8 8 false = .error .perm ∧
    access (banked [(33, 0xC0000)]) 0 0xC0000 8 8 false = .error .segv ∧
    ({ banked [(33, 64)] with poisoned := [coreLoc 0 64] } : State).loadBad 0 (coreLoc 0 64) = true ∧
    State.heldAtBank { banked [(33, 64)] with scrubbing := [regionOf 0 (coreLoc 0 64)] } 0 true 1 [coreLoc 0 64] = true := by decide +kernel

theorem wit_ScalarStore : ready1 (.st ⟨2, 33, 0, 0, 3⟩) ⟨2, 33, 0, 0, 3⟩ (banked [(33, 64)]) = true ∧
    scalarAccess (.st ⟨2, 33, 0, 0, 3⟩) ⟨2, 33, 0, 0, 3⟩ (banked [(33, 64)]) = some (64, 8, true) ∧
    access (banked [(33, 64)]) 0 64 8 8 true = .ok (coreLoc 0 64) := by decide +kernel

theorem wit_OperandTraps_access : ready1 (.ld ⟨1, 33, 0, 0, 3⟩) ⟨1, 33, 0, 0, 3⟩ (banked [(33, 65)]) = true ∧
    scalarAccess (.ld ⟨1, 33, 0, 0, 3⟩) ⟨1, 33, 0, 0, 3⟩ (banked [(33, 65)]) = some (65, 8, false) ∧
    access (banked [(33, 65)]) 0 65 8 8 false = .error .misalign := by decide +kernel
theorem wit_OperandTraps_jump : ready1 (.jmp ⟨0, 2, 0, 0, 0⟩) ⟨0, 2, 0, 0, 0⟩ (regs [(2, 33)]) = true ∧
    (valueS (regs [(2, 33)]) 2).toNat % 32 ≠ 0 := by decide +kernel
theorem wit_OperandTraps_push : ready1 (.actp ⟨0, 2, 3, 0, 0⟩) ⟨0, 2, 3, 0, 0⟩ State.reset = true ∧
    (State.reset.imageOf (State.reset.core 0)).routines.length ≤ 0 := by decide +kernel
theorem wit_OperandTraps_kick : ready1 (.kick .c0 ⟨0, 2, 0, 0, 0⟩) ⟨0, 2, 0, 0, 0⟩ State.reset = true ∧ queuePartition State.reset 0 = none := by
  decide +kernel
theorem wit_OperandTraps_object : [.barr ⟨1, 33, 0, 0, 0⟩, .waitb ⟨1, 33, 3, 0, 0⟩, .actb ⟨1, 33, 3, 0, 0⟩].all (fun i => namesObject i &&
      match slotFields i with
      | some f => ready1 i f (regs [(33, 0x10000004)]) && (objectLoc (regs [(33, 0x10000004)]) 0 (valueS (regs [(33, 0x10000004)]) (read i f).a).toNat == .error .misalign) &&
          (objectLoc (regs [(33, 64)]) 0 (valueS (regs [(33, 64)]) (read i f).a).toNat matches .error _)
      | none => false) = true := by decide +kernel
theorem wit_OperandTraps_vector : ready1 (.vld .v0 ⟨4, 1, 0, 0, 0⟩) ⟨4, 1, 0, 0, 0⟩ (regs [(33, 256)]) = true ∧
    0 ∈ accessLanes (.vld .v0 ⟨4, 1, 0, 0, 0⟩) ⟨4, 1, 0, 0, 0⟩ (regs [(33, 256)]) ∧
    laneCheck (.vld .v0 ⟨4, 1, 0, 0, 0⟩) ⟨4, 1, 0, 0, 0⟩ (regs [(33, 256)]) 0 = .error .perm := by decide +kernel
theorem wit_OperandTraps_row : ready1 (.opa ⟨1, 6, 41, 0, 10⟩) ⟨1, 6, 41, 0, 10⟩ (regs [(41, 0x7FF80)]) = true ∧
    (valueS (regs [(41, 0x7FF80)]) 41).toNat < 0x80000 ∧ 0xC0000 < (valueS (regs [(41, 0xBFFFF)]) 41).toNat + 128 * 1 ∧
    0x80000 ≤ (valueS (regs [(41, 0x80001)]) 41).toNat ∧ (valueS (regs [(41, 0x80001)]) 41).toNat % 128 ≠ 0 := by decide +kernel

theorem wit_BranchesAndChecks_chk : ready1 (.chk ⟨0, 2, 3, 0, 0⟩) ⟨0, 2, 3, 0, 0⟩ State.reset = true ∧ poisonS State.reset 2 = false ∧
    issues (.chk ⟨0, 2, 3, 0, 0⟩) ⟨0, 2, 3, 0, 0⟩ (poisonedState 4) = true ∧ poisonS (poisonedState 4) 2 = true := by decide +kernel
theorem wit_BranchesAndChecks_branch : ready1 (.brl ⟨0, 0, 1, 0, 0⟩) ⟨0, 0, 1, 0, 0⟩ State.reset = true ∧
    branchTarget (.brl ⟨0, 0, 1, 0, 0⟩) ⟨0, 0, 1, 0, 0⟩ State.reset = some 32 ∧ ready1 (.jmp ⟨0, 2, 0, 0, 0⟩) ⟨0, 2, 0, 0, 0⟩ (regs [(2, 64)]) = true ∧
    branchTarget (.jmp ⟨0, 2, 0, 0, 0⟩) ⟨0, 2, 0, 0, 0⟩ (regs [(2, 64)]) = some 64 := by decide +kernel

theorem wit_LoopStarts : ready1 (.loop ⟨11, 5, 3, 0, 0⟩) ⟨11, 5, 3, 0, 0⟩ (regs [(5, 2)]) = true ∧ ready1 (.loop ⟨63, 5, 0, 0, 8⟩) ⟨63, 5, 0, 0, 8⟩ (regs []) = true ∧
    (∀ l ∈ (State.reset.core 0).work.loops, l.active = false) ∧ (State.reset.core 0).work.loops.length = 4 := by decide +kernel

/-- Core 0 at bundle 1 of the body of level 0, which ends at bundle `k`. -/
def inBody (k : Nat) : State := st fun c => { c with work := { c.work with
  pc := 32, sc := [(5, 2), (48, 3)], loops := [⟨0, BitVec.ofNat 64 (32 * k), 0, 0, true⟩, Loop.idle, Loop.idle, Loop.idle] } }
/-- A body of level 1 of 12 bundles is cut where that of level 0 ends before it; where level 0 ends with the LOOP's own bundle none is left. -/
theorem wit_LoopStarts_enclosed : [1, 4, 13].all (fun k => let s := inBody k; let c := s.core 0
    ready1 (.loop ⟨11, 5, 1, 0, 0⟩) ⟨11, 5, 1, 0, 0⟩ s && decide (loopStop c.work.loops 1 c.work.pc (c.work.pc + 32 * 12) = if k = 13 then 32 * 13 else BitVec.ofNat 64 (32 * k)) &&
    decide (0 < (valueS s 5).toNat % 2 ^ 32)) = true := by decide +kernel

theorem wit_CommitEffects : ready1 (.yield ⟨0, 2, 0, 0, 0⟩) ⟨0, 2, 0, 0, 0⟩ State.reset = true ∧ (commitEffect (.yield ⟨0, 2, 0, 0, 0⟩) ⟨0, 2, 0, 0, 0⟩ State.reset).isSome = true ∧
    ready1 (.acta ⟨0, 2, 0, 0, 0⟩) ⟨0, 2, 0, 0, 0⟩ State.reset = true ∧ ready1 (.brel ⟨0, 2, 0, 0, 1⟩) ⟨0, 2, 0, 0, 1⟩ State.reset = true ∧
    ready1 (.halt ⟨0, 0, 0, 0, 0⟩) ⟨0, 0, 0, 0, 0⟩ privilegedState = true := by decide +kernel
/-- Queue 5 in the partition of cluster 0. -/
def partitioned : State :=
  { State.reset with
    parts := [⟨[0], [0]⟩]
    groups := [(0, { Group.none with clusters := [0] })]
    queues := [(5, { Queue.none with conf := { Queue.none.conf with group := 0 } })] }
theorem wit_CommitEffects_kick : ready1 (.kick .c1 ⟨0, 62, 0, 0, 0⟩) ⟨0, 62, 0, 0, 0⟩ partitioned = true ∧ queuePartition partitioned 5 = some 0 ∧
    partitionOf partitioned 0 = some 0 := by decide +kernel
/-- An image of one routine, whose digest and REPLAY are those given. -/
def oneRoutine (replay : Bool) (digest : List Byte) : State :=
  { State.reset with images := [(0, ⟨0, 0, [], 1, 0, 32, [], [⟨⟨[], 0, replay, 2, 1, 0, digest, []⟩, 0, 4⟩], 0, 2, false⟩)] }
/-- An image of one routine that no unit runs. -/
def withRoutine : State := oneRoutine false []
theorem wit_CommitEffects_push : ready1 (.actp ⟨0, 2, 3, 0, 0⟩) ⟨0, 2, 3, 0, 0⟩ withRoutine = true ∧ 0 < (withRoutine.imageOf (withRoutine.core 0)).routines.length := by
  decide +kernel

/-- Register 3 is all ones, which names no activity. -/
theorem wit_CommitEffects_none : let s := withRoutine.onCore 0 fun c => { c with work := { c.work with sc := [(3, allOnes64)] } }
    ready1 (.actp ⟨0, 2, 3, 0, 0⟩) ⟨0, 2, 3, 0, 0⟩ s = true ∧ valueS s 3 = BitVec.allOnes 64 ∧
    (commitEffect (.actp ⟨0, 2, 3, 0, 0⟩) ⟨0, 2, 3, 0, 0⟩ s).map (·.1) = some (.push 0 0 256 [0, 0, 0, 0, 0, 0]) := by decide +kernel

theorem wit_ValueRecorded_object : ready1 (.barr ⟨1, 33, 0, 0, 0⟩) ⟨1, 33, 0, 0, 0⟩ (regs [(33, 0x10000000)]) = true ∧
    objectLoc (regs [(33, 0x10000000)]) 0 0x10000000 = .ok (tunLoc 0 0) ∧
    (valueOp (.barr ⟨1, 33, 0, 0, 0⟩) ⟨1, 33, 0, 0, 0⟩ (regs [(33, 0x10000000)]) (tunLoc 0 0)).isSome = true := by decide +kernel
theorem wit_ValueRecorded_activity : ready1 (.acte ⟨1, 2, 0, 0, 0⟩) ⟨1, 2, 0, 0, 0⟩ State.reset = true ∧ namesObject (.acte ⟨1, 2, 0, 0, 0⟩) = false := by
  decide +kernel
theorem wit_ValueRecorded_amo : ready1 (.amo ⟨1, 1, 3, 0, 0⟩) ⟨1, 1, 3, 0, 0⟩ (regs [(33, 0x10000000)]) = true ∧
    atomicLoc (regs [(33, 0x10000000)]) 0 0x10000000 8 = .ok (tunLoc 0 0) ∧ atomicLoc (regs []) 0 0x80000 8 = .error .perm := by decide +kernel
theorem wit_ValueRecorded_vamo : ready1 (.vamo .v0 ⟨1, 1, 2, 4, 0⟩) ⟨1, 1, 2, 4, 0⟩ State.reset = true ∧
    lanes (read (.vamo .v0 ⟨1, 1, 2, 4, 0⟩) ⟨1, 1, 2, 4, 0⟩) State.reset = 0 ∧
    ready1 (.vamo .v0 ⟨1, 1, 2, 0, 0⟩) ⟨1, 1, 2, 0, 0⟩ (regs [(33, 0x10000000)]) = true ∧
    laneCheck (.vamo .v0 ⟨1, 1, 2, 0, 0⟩) ⟨1, 1, 2, 0, 0⟩ (regs [(33, 0x10000000)]) 63 = .ok (tunLoc 0 0) := by decide +kernel

theorem wit_SoftTrap : ready1 (.trap ⟨0, 2, 0, 0, 0⟩) ⟨0, 2, 0, 0, 0⟩ State.reset = true ∧ operandsOk (.trap ⟨0, 2, 0, 9, 0⟩) = true ∧ calm State.reset = true ∧
    (State.reset.core 0).work.guard 9 = false := by decide +kernel

theorem wit_ControlRegisters : issues (.crd ⟨1, 0, 0, 0, 0⟩) ⟨1, 0, 0, 0, 0⟩ State.reset = true ∧ issues (.crd ⟨1, 8, 0, 0, 0⟩) ⟨1, 8, 0, 0, 0⟩ privilegedState = true ∧
    ready1 (.cwr ⟨4, 2, 0, 0, 0⟩) ⟨4, 2, 0, 0, 0⟩ State.reset = true ∧ ready1 (.cwr ⟨14, 2, 0, 0, 0⟩) ⟨14, 2, 0, 0, 0⟩ privilegedState = true := by decide +kernel

/-- A pending write of a control register; a rotation base of 31 is stored as 7. -/
theorem wit_ControlRegisters_lands : let c := (st fun c => { c with work := { c.work with
      pend := [⟨0, 1, 0, 1, .control 4, 0x51F, allOnes64, false, none, 0, 0, none, 0⟩] } }).core 0
    c.work.pend.length = 1 ∧ (c.land 1).work.vrb = 7 ∧ (c.land 1).work.prb = 5 := by decide +kernel

theorem wit_DescriptorFields : ((List.range 13).all fun k =>
    ready1 (.gset ⟨1, 2, 3, 0, BitVec.ofNat 4 k⟩) ⟨1, 2, 3, 0, BitVec.ofNat 4 k⟩ State.reset) = true ∧
    ready1 (.gset ⟨1, 2, 0, 0, 4⟩) ⟨1, 2, 0, 0, 4⟩ State.reset = true ∧ (read (.gset ⟨1, 2, 0, 0, 4⟩) ⟨1, 2, 0, 0, 4⟩).b = 0 := by decide +kernel
theorem wit_DescriptorFields_stride : [5, 6, 7].all (fun a => [10, 11].all fun k => ready1 (.gset ⟨1, 2, 3, 0, k⟩) ⟨1, 2, 3, 0, k⟩ (regs [(2, a), (3, 9)]) &&
    decide ((valueS (regs [(2, a), (3, 9)]) 2).toNat % 8 = a.toNat)) = true := by decide +kernel

/-- A supervisor segment that maps the MiB at 2^32 to the physical addresses from 2^33 on. -/
def saveSegs : Store (BitVec 256) := [(0, BitVec.ofNat 256 (0x100000000 + 0x100000 * 2 ^ 64 + 0x200000000 * 2 ^ 128 + 13 * 2 ^ 192))]
/-- Core 0 with a save area. -/
def savable (f : Core → Core) : State := { (st fun c => f { c with save := 0x100000000, svec := 0x400 }) with supSegs := saveSegs }
theorem wit_HandlerReturns_sret : ready1 (.sret ⟨0, 0, 0, 0, 0⟩) ⟨0, 0, 0, 0, 0⟩ privilegedState = true ∧ (privilegedState.core 0).pending = none ∧
    (privilegedState.core 0).seg.effects = [] := by decide +kernel

theorem wit_DuplicateCompare : issues (.cmpt ⟨0, 2, 3, 0, 0⟩) ⟨0, 2, 3, 0, 0⟩ State.reset = true ∧ issues (.cmpt ⟨0, 2, 3, 0, 1⟩) ⟨0, 2, 3, 0, 1⟩ State.reset = true ∧
    issues (.cmpt ⟨0, 2, 3, 0, 2⟩) ⟨0, 2, 3, 0, 2⟩ State.reset = true := by decide +kernel

theorem wit_IssueTraps : issues (.ld ⟨1, 33, 0, 0, 0⟩) ⟨1, 33, 0, 0, 0⟩ (poisonedState (2 ^ 33)) = true ∧
    poisonUse (.ld ⟨1, 33, 0, 0, 0⟩) ⟨1, 33, 0, 0, 0⟩ (poisonedState (2 ^ 33)) = true ∧ operandsOk (.add ⟨1, 60, 0, 0, 0⟩) = false ∧
    operandsOk (.halt ⟨0, 0, 0, 0, 0⟩) = true ∧ privileged (.halt ⟨0, 0, 0, 0, 0⟩) = true ∧ (State.reset.core 0).sup = false := by decide +kernel

/-! ### Words of the V slots -/

theorem wit_VectorIntegerRow : ready1 (.vmad .v1 ⟨1, 2, 3, 4, 2⟩) ⟨1, 2, 3, 4, 2⟩ State.reset = true ∧
    (tableVec (.vmad .v1 ⟨1, 2, 3, 4, 2⟩) (intShape 2).1 (intShape 2).2 0 0 0).isSome = true ∧ ready1 (.vabs .v0 ⟨1, 2, 0, 0, 0⟩) ⟨1, 2, 0, 0, 0⟩ State.reset = true ∧
    ready1 (.vadd .v0 ⟨1, 2, 3, 0, 0⟩) ⟨1, 2, 3, 0, 0⟩ (poisonedVecs 4) = true := by decide +kernel
theorem wit_VectorCompare : ready1 (.vcmp .v0 ⟨20, 2, 3, 0, 4⟩) ⟨20, 2, 3, 0, 4⟩ State.reset = true ∧
    ready1 (.vfcmp .v0 ⟨52, 2, 3, 0, 9⟩) ⟨52, 2, 3, 0, 9⟩ State.reset = true := by decide +kernel
theorem wit_SelectsAndMoves : ready1 (.vsel .v0 ⟨1, 2, 3, 4, 2⟩) ⟨1, 2, 3, 4, 2⟩ State.reset = true ∧
    ((List.range 6).all fun k => ready1 (.pmov .v0 ⟨1, 2, 0, 0, BitVec.ofNat 4 k⟩) ⟨1, 2, 0, 0, BitVec.ofNat 4 k⟩ State.reset) = true ∧
    ready1 (.pmov .v0 ⟨1, 2, 0, 4, 3⟩) ⟨1, 2, 0, 4, 3⟩ State.reset = true ∧ (lanes (read (.pmov .v0 ⟨1, 2, 0, 4, 3⟩) ⟨1, 2, 0, 4, 3⟩) State.reset).getLsbD 0 = false := by
  decide +kernel
theorem wit_PredicateLogic : ready1 (.plog .v0 ⟨0, 4, 5, 0, 3⟩) ⟨0, 4, 5, 0, 3⟩ State.reset = true ∧ ready1 (.plog .v0 ⟨31, 4, 5, 0, 3⟩) ⟨31, 4, 5, 0, 3⟩ State.reset = true ∧
    ready1 (.plog .v0 ⟨15, 4, 5, 9, 3⟩) ⟨15, 4, 5, 9, 3⟩ State.reset = true ∧ lanes ⟨15, 4, 5, 9, 3⟩ State.reset = 0 ∧ lanes ⟨31, 4, 5, 0, 3⟩ State.reset ≠ 0 := by
  decide +kernel
theorem wit_VectorFloatRow : ready1 (.vfma .v0 ⟨1, 2, 3, 0, 9⟩) ⟨1, 2, 3, 0, 9⟩ State.reset = true ∧
    (tableFloat (.vfma .v0 ⟨1, 2, 3, 0, 9⟩) (floatShape 9) 0 0 0).isSome = true ∧ ready1 (.vfrce .v0 ⟨1, 2, 0, 0, 7⟩) ⟨1, 2, 0, 0, 7⟩ State.reset = true := by decide +kernel
theorem wit_VectorConversion : ready1 (.vfcvt .v0 ⟨1, 2, 1, 0, 10⟩) ⟨1, 2, 1, 0, 10⟩ State.reset = true ∧ ready1 (.vfcvt .v0 ⟨1, 2, 6, 0, 10⟩) ⟨1, 2, 6, 0, 10⟩ State.reset = true ∧
    ready1 (.vpack .v0 ⟨1, 2, 0, 0, 10⟩) ⟨1, 2, 0, 0, 10⟩ State.reset = true ∧ ready1 (.vunpk .v0 ⟨1, 2, 8, 0, 10⟩) ⟨1, 2, 8, 0, 10⟩ State.reset = true := by decide +kernel
theorem wit_Permutes : ready1 (.vslide .v0 ⟨1, 2, 63, 0, 4⟩) ⟨1, 2, 63, 0, 4⟩ State.reset = true ∧
    (tablePerm (.vslide .v0 ⟨1, 2, 63, 0, 4⟩) 63 64 (fun _ => (0 : BitVec 32)) (fun _ => 0) (fun _ => 0) 0).isSome = true := by decide +kernel
theorem wit_TreeReduction : ready1 (.vred .v0 ⟨1, 2, 0, 0, 9⟩) ⟨1, 2, 0, 0, 9⟩ State.reset = true ∧ ready1 (.vscan .v0 ⟨1, 2, 3, 4, 4⟩) ⟨1, 2, 3, 4, 4⟩ State.reset = true := by
  decide +kernel
theorem wit_VectorLoad : ready1 (.vld .v0 ⟨4, 1, 4, 0, 0⟩) ⟨4, 1, 4, 0, 0⟩ (banked [(33, 256)]) = true ∧
    ((accessLanes (.vld .v0 ⟨4, 1, 4, 0, 0⟩) ⟨4, 1, 4, 0, 0⟩ (banked [(33, 256)])).all fun l =>
      laneCheck (.vld .v0 ⟨4, 1, 4, 0, 0⟩) ⟨4, 1, 4, 0, 0⟩ (banked [(33, 256)]) l == .ok (coreLoc 0 (256 + 4 * l))) = true ∧
    lanes (read (.vld .v0 ⟨4, 1, 4, 0, 0⟩) ⟨4, 1, 4, 0, 0⟩) (banked [(33, 256)]) ≠ 0 ∧ ready1 (.vld .v0 ⟨4, 1, 4, 4, 0⟩) ⟨4, 1, 4, 4, 0⟩ State.reset = true ∧
    lanes (read (.vld .v0 ⟨4, 1, 4, 4, 0⟩) ⟨4, 1, 4, 4, 0⟩) State.reset = 0 ∧ ready1 (.vldx .v0 ⟨63, 1, 0, 0, 0⟩) ⟨63, 1, 0, 0, 0⟩ (banked [(33, 256)]) = true ∧
    ready1 (.vgath .v0 ⟨55, 1, 2, 0, 3⟩) ⟨55, 1, 2, 0, 3⟩ (banked [(33, 255)]) = true := by decide +kernel
theorem wit_VectorLoad_speculative : ready1 (.vldx .v0 ⟨4, 1, 0, 0, 0⟩) ⟨4, 1, 0, 0, 0⟩ (regs [(33, 256)]) = true ∧
    0 ∈ accessLanes (.vldx .v0 ⟨4, 1, 0, 0, 0⟩) ⟨4, 1, 0, 0, 0⟩ (regs [(33, 256)]) ∧
    laneCheck (.vldx .v0 ⟨4, 1, 0, 0, 0⟩) ⟨4, 1, 0, 0, 0⟩ (regs [(33, 256)]) 0 = .error .perm ∧
    laneCheck (.vldx .v0 ⟨4, 1, 0, 0, 0⟩) ⟨4, 1, 0, 0, 0⟩ (banked [(33, 128)]) 0 = .error .misalign := by decide +kernel
theorem wit_VectorStore : ready1 (.vst .v1 ⟨4, 1, 4, 0, 0⟩) ⟨4, 1, 4, 0, 0⟩ (banked [(33, 256)]) = true ∧
    laneCheck (.vst .v1 ⟨4, 1, 4, 0, 0⟩) ⟨4, 1, 4, 0, 0⟩ (banked [(33, 256)]) 63 = .ok (coreLoc 0 508) ∧
    ready1 (.vscat .v1 ⟨4, 1, 2, 0, 2⟩) ⟨4, 1, 2, 0, 2⟩ (banked [(33, 255)]) = true ∧ accessLanes (.vscat .v1 ⟨4, 1, 2, 4, 2⟩) ⟨4, 1, 2, 4, 2⟩ State.reset = [] := by decide +kernel
theorem wit_OwnBarrelLoads_scales : ready1 (.vlde .v0 ⟨55, 1, 63, 0, 0⟩) ⟨55, 1, 63, 0, 0⟩ (banked [(33, 64)]) = true ∧
    ownBarrel (banked [(33, 64)]) 0 (64 + 64 * 63) 64 64 false = .ok (coreLoc 0 4096) ∧ ownBarrel (banked []) 0 0x80000 64 64 false = .error .perm ∧
    lanes (read (.vlde .v0 ⟨55, 1, 63, 4, 0⟩) ⟨55, 1, 63, 4, 0⟩) State.reset = 0 := by decide +kernel
theorem wit_OwnBarrelLoads_transpose : ready1 (.txq ⟨9, 33, 5, 0, 2⟩) ⟨9, 33, 5, 0, 2⟩ (banked [(5, 8), (33, 64)]) = true ∧
    ((List.range 64).all fun l => ownBarrel (banked [(5, 8), (33, 64)]) 0 (64 + 8 * l) 4 4 false == .ok (coreLoc 0 (64 + 8 * l))) = true ∧
    ((banked []).core 0).txqs < 8 ∧ ownBarrel (banked []) 0 2 4 4 false = .error .misalign ∧ ready1 (.txq ⟨63, 33, 5, 0, 2⟩) ⟨63, 33, 5, 0, 2⟩ (banked []) = true := by decide +kernel

/-! ### Words of the M and C slots -/

theorem wit_PressEntryQueued : ready1 (.opa ⟨9, 6, 41, 0, 10⟩) ⟨9, 6, 41, 0, 10⟩ (regs [(41, 0xBFF80)]) = true ∧
    (valueS (regs [(41, 0xBFF80)]) 41).toNat = 0xBFF80 ∧ ready1 (.zclr ⟨4, 0, 0, 0, 0⟩) ⟨4, 0, 0, 0, 0⟩ State.reset = true ∧
    ready1 (.zld ⟨4, 2, 5, 0, 1⟩) ⟨4, 2, 5, 0, 1⟩ State.reset = true := by decide +kernel
/-- Core 0 in a bundle whose literal is `n`. -/
def literal (n : BitVec 32) (sc : Store Word) : State := st fun c => { c with lx := true, lit := n, work := { c.work with sc := sc } }
theorem wit_PressEntryQueued_repeated : ready1 (.opar ⟨2, 8, 41, 0, 7⟩) ⟨2, 8, 41, 0, 7⟩ (literal 0 []) = true ∧
    ready1 (.opar ⟨2, 8, 41, 0, 7⟩) ⟨2, 8, 41, 0, 7⟩ (literal 1 [(41, 0xBFF80)]) = true ∧
    ready1 (.opar ⟨2, 8, 41, 0, 7⟩) ⟨2, 8, 41, 0, 7⟩ (literal 2 [(41, 0x80000)]) = true := by decide +kernel
theorem wit_TileRowMoved : ready1 (.zmov ⟨1, 2, 3, 0, 9⟩) ⟨1, 2, 3, 0, 9⟩ State.reset = true ∧ ((State.reset.core 0).tile 2).lost = [] ∧
    Store.sortedFrom 0 ((State.reset.core 0).tile 2).cells = true := by decide +kernel
theorem wit_ResiduesFlushed : issues (.zflush ⟨5, 2, 0, 0, 1⟩) ⟨5, 2, 0, 0, 1⟩ State.reset = true ∧ ((State.reset.core 0).tile 5).lost = [] := by decide +kernel
/-- A tile with a lost cell, met for the first and for the second time. -/
def lostTile (again : Bool) : State := st fun c => { c with
  tiles := [(2, { Tile.zero with lost := [7] })], badRec := if again then some (c.work.pc, c.work.space) else none }
theorem wit_lostTile : [false, true].all (fun again => let s := lostTile again
    ready1 (.zmov ⟨1, 2, 3, 0, 9⟩) ⟨1, 2, 3, 0, 9⟩ s && issues (.zflush ⟨2, 2, 0, 0, 1⟩) ⟨2, 2, 0, 0, 1⟩ s && decide (((s.core 0).tile 2).lost ≠ []) &&
    decide (((s.core 0).badRec = some ((s.core 0).work.pc, (s.core 0).work.space)) ↔ again)) = true := by decide +kernel
/-- A VST with no active lane whose step is 4, and one of step 0. -/
theorem wit_VectorStore_step : [0, 4].all (fun n => ready1 (.vst .v1 ⟨4, 1, n, 4, 0⟩) ⟨4, 1, n, 4, 0⟩ (regs [(33, 256)]) &&
    (accessLanes (.vst .v1 ⟨4, 1, n, 4, 0⟩) ⟨4, 1, n, 4, 0⟩ (regs [(33, 256)])).isEmpty) = true := by decide +kernel
theorem wit_CallEnters : issues (.rcall ⟨1, 0, 0, 0, 0⟩) ⟨1, 0, 0, 0, 0⟩ withRoutine = true ∧ (withRoutine.core 0).work.frames.length ≠ 4 ∧
    (withRoutine.imageOf (withRoutine.core 0)).routines[0]?.isSome = true ∧
    ((withRoutine.imageOf (withRoutine.core 0)).routines.all fun r => tilesAllowed (withRoutine.imageOf (withRoutine.core 0)) r (withRoutine.core 0).work.queue) = true ∧
    ((withRoutine.imageOf (withRoutine.core 0)).routines.all fun r => (graftTaken withRoutine 0 0 r (withRoutine.core 0).work.queue).isNone) = true ∧
    (withRoutine.imageOf (withRoutine.core 0)).routines[1]? = none := by decide +kernel
/-- An image whose routine the copy engine runs: the last entry of Table 2.6 with a printed digest. -/
def withGraft : State := oneRoutine true (printedDigest 0x38f6b1d4e02a7c955a8b0d63f9e126c4)
theorem wit_CommandCaptured : ready1 (.migr .c1 ⟨31, 12, 3, 0, 1⟩) ⟨31, 12, 3, 0, 1⟩ State.reset = true ∧ commandKind (.migr .c1 ⟨31, 12, 3, 0, 1⟩) = some .migr ∧
    ready1 (.drain .c0 ⟨0, 0, 0, 0, 4⟩) ⟨0, 0, 0, 0, 4⟩ State.reset = true := by decide +kernel

end Sys2Proof.Tests
end

