-- ==== Sys2Proof/Tests/Events1.lean ====
section
/-! SUPPORT. Witnesses for the statements about a core's own steps and its routines. -/

set_option Elab.async false

namespace Sys2Proof.Tests

open Sys2Proof Sys2Proof.Machine Sys2Proof.Safety

/-- A bundle of one slot word with header bits `h`. -/
def bundle1 (h k w : Nat) : Bundle := BitVec.ofNat 256 (h ||| (w <<< (32 * k)))

/-- An image of eight bundles with the given texts. -/
def imageOf8 (text store : Store Bundle) (routines : List Routine) : Image := ⟨0, 0, text, 8, 0, 256, store, routines, 0, 2, false⟩

/-- Core 0 runs an image and is changed. -/
def runs (text store : Store Bundle) (routines : List Routine) (f : Core → Core) : State :=
  { (st fun c => f { c with run := .running }) with images := [(0, imageOf8 text store routines)] }

/-- The state of an answer. -/
def goes (r : Ready) : Option (Bundle × State) :=
  match r with
  | .go b t => some (b, t)
  | _ => none

/-! ### Bundles -/

def waiting : State := st fun c => { c with run := .waiting, nextBanks := 3, ctx := 5 }
theorem wit_BundlesIssue_first : (waiting.core 0).run = .waiting ∧ heldBanks waiting 0 &&& (waiting.core 0).nextBanks = 0 ∧
    Memory.wf waiting.mem = true := by decide +kernel

/-- A recovery bundle at 96, with a word that the table does not have in its M slot where `bad`. -/
def recovering (bad : Bool) : State :=
  runs [(3, bundle1 0 4 (if bad then 0x24000000 else 0x0C400000))] [] [] fun c => { c with work := { c.work with recov := some 96 } }
theorem wit_BundlesIssue_recovery : ([false, true].all fun bad =>
      let s := recovering bad
      !lastRecovery s (s.core 0) && match ready 0 s with
        | .go _ u => decide ((u.core 0).work.recov = some 96) && match fetchAt u (u.core 0) 96 (u.core 0).work.space with
          | some r => (compare (u.landed 0) ((u.landed 0).core 0) 96 (u.core 0).work.space r).2.isNone &&
              (u.core 0).flagsReady u.cyc.toNat (headerOf r).wait && decide ((issueCheck (u.core 0).sup true r).isSome = bad) &&
              (bad || !tileMark ((u.landed 0).core 0) r && decide ((holdCycles (u.landed 0) 0 r).1 = 0))
          | none => false
        | _ => false) = true := by decide +kernel

/-- An OPAR of core 0 with repetitions left. -/
def repeating (n : Nat) (vp : Word) : State :=
  runs [] [] [] fun c => { c with work := { c.work with opar := some ⟨n, 0xBFF80, 2, true, 8, 7, 41, 3⟩, vpoison := vp } }
theorem wit_BundlesIssue_repetition : repetitionDue (repeating 0 0) 0 = true ∧ repetitionDue (repeating 1 0) 0 = true ∧
    repetitionDue (repeating 1 0x100) 0 = true ∧ ((repeating 1 0x100).core 0).vPoison 8 = true ∧
    ((repeating 1 0).core 0).vPoison 8 = false ∧ ((repeating 1 0).core 0).seg.opas.length < 128 := by decide +kernel

/-- The eight cores of cluster 0 at a bundle of a rendezvous. -/
def meeting : State :=
  { State.reset with
    cores := (List.range 8).map fun p => (p, { Core.reset with run := .running })
    images := [(0, imageOf8 [(0, bundle1 0x2000 4 0x0C400000)] [] [])] }
theorem wit_BundlesIssue_rendezvous : (List.range 8).Pairwise (· < ·) ∧ ((List.range 8).all fun p => (List.range 8).all fun q =>
      decide ((meeting.core p).work.rz.toNat ≤ (meeting.core q).work.rz.toNat)) = true ∧
    (rendezvousReady (List.range 8) meeting).1.isSome = true ∧ (rendezvousReady (List.range 8) State.reset).1.isNone = true := by decide +kernel

/-! ### Segments -/

/-- A load of core 0 that waits for its byte. -/
def owing (unc : Bool) : State := st fun c => { c with work := { c.work with
  pend := [⟨7, 4, 0, 1, .scalar 3, 0x55, allOnes64, false, none, 0, 0, some ⟨[(coreLoc 0 64, 0)], 1, .zero, false, false, 0, [], unc, false, false, 0, false, [], .plain, 0, []⟩, 0⟩] } }
/-- The same, held at its bank by a scrub that is over: it reads again, and keeps a byte where it has one. -/
def atBank (kept : List (Nat × Byte)) : State := (owing false).onCore 0 fun c => { c with work := { c.work with
  pend := c.work.pend.map fun q => { q with load := q.load.map fun l => { l with reread := true, kept := kept } } } }
theorem wit_SegmentCommits_arrival : ([false, true].all fun unc => match owedLoad ((owing unc).core 0) 7 with
      | some q => match q.load with
        | some l => l.after.isEmpty && !l.reread && decide (l.uncorrectable = unc) &&
            !((owing unc).core 0).loadsBefore 0 l.cls (l.bytes.map (·.1)) q.bno && l.bytes.all fun b => !(owing unc).scrubs b.1
        | none => false
      | none => false) = true ∧ ([[], [(coreLoc 0 64, 0x77)]].all fun k => match owedLoad ((atBank k).core 0) 7 with
      | some q => (q.load.any fun l => (rereadLoad (atBank k) 0 q l).load.isSome && l.reread && l.after.isEmpty)
      | none => false) = true := by decide +kernel

/-- A closed segment of core 0 that is due. -/
def closed (stores : List CaskEntry) (effects : List Effect) : State :=
  { (runs [] [] [] fun c => { c with
      mark := { c.mark with pc := 32, bno := 1 }, work := { c.work with pc := 32, bno := 1 }
      pending := some { Segment.opened 0 false with stores := stores, effects := effects } }) with cyc := 48 }
theorem wit_SegmentCommits_commit : ([closed [⟨[(coreLoc 0 64, 0x12), (coreLoc 0 64, 0x34)], 1, 0, 1, 1, [], 0, 0, false⟩] [],
      closed [⟨[(tunLoc 0 64, 0x12)], 1, 0, 1, 1, [], 0, 0, false⟩] [], closed [] [], closed [] [.kick 4095], closed [] [.halt]].all fun s =>
      match (s.core 0).pending with
      | some g => commitReady s 0 g && !(s.core 0).sstep && (s.core 0).opaq.isEmpty && (s.core 0).heldStores.isEmpty && g.opas.isEmpty && s.reqs.isEmpty && ((s.core 0).inFlight.all fun q => !q.atBank) &&
          g.stores.all fun e => e.after.isEmpty && e.bytes.all fun b => !isOwnBplane 0 b.1
      | none => false) = true := by decide +kernel

/-- A value that has come back for core 0. -/
def returned (op : ValueOp) : State := st fun c => { c with value := [⟨7, op, 1, none, [], 0⟩], valueBack := [(7, 0, 0x99, 1)] }
theorem wit_SegmentCommits_value : ([ValueOp.amo 3 .add (tunLoc 0 0) 8 false 1 0, .barr 0 (tunLoc 0 0), .waitb 4 (tunLoc 0 0) 1 5, .actb 5 (tunLoc 0 0), .acts 6 1].all fun op =>
      ((returned op).core 0).comp.isNone && decide (((returned op).core 0).value = [⟨7, op, 1, none, [], 0⟩]) && ((returned op).core 0).heldValue.isEmpty &&
      decide (((returned op).core 0).valueBack = [(7, 0, 0x99, 1)])) = true := by decide +kernel

/-- A WAITB of core 0 whose time is over. -/
def timedOut (phase : BitVec 16) : State :=
  { (st fun c => { c with value := [⟨7, .waitb 4 (tunLoc 0 0) phase 5, 1, none, [], 0⟩] }) with waits := [⟨0, tunLoc 0 0, phase, 5, 7, 0, 3⟩], cyc := 5 }
theorem wit_SegmentCommits_timeout : ([0, 1].all fun ph => (timedOut ph).waits.length == 1 && ((timedOut ph).core 0).awaits 7 &&
      ((timedOut ph).core 0).valueBack.isEmpty && decide ((5 : Nat) ≤ (timedOut ph).cyc.toNat) && !(timedOut ph).scrubs (tunLoc 0 0) &&
      !(timedOut ph).isPoisoned (tunLoc 0 0)) = true := by decide +kernel

/-! ### The press and the checks -/

/-- An entry of the press of core 0. -/
def pressing (o : TileOp) : State := st fun c => { c with opaq := [(0, o)] }
theorem wit_PressApplies : ([TileOp.opa 1 10 false 0 (coreLoc 0 0x80000) 64 false, .zclr true 0, .zclr false 3, .zld 2 63 true 1, .zld 2 0 false 1,
      .zflush 4 none [(65, -5)], .zflush 4 (some 0) [], .zflush 4 (some (BitVec.allOnes 512)) [(0, 7)], .zflush 4 none [(65, 2 ^ 50)], .lost 64 false].all fun o => let s := pressing o
      decide ((s.core 0).opaq = [(0, o)]) && !o.scrubHeld s && (s.core 0).tiles.isEmpty && decide ((s.core 0).pressAt ≤ s.cyc.toNat) && decide ((s.core 0).run ≠ .running) &&
      (s.core 0).standIn.isNone && ((List.range 128).all fun k => !s.isPoisoned (coreLoc 0 0x80000 + k))) = true := by decide +kernel
/-- An entry whose row holds uncorrectable data. -/
theorem wit_PressApplies_uncorrectable :
    let s : State := { pressing (.opa 1 10 false 0 (coreLoc 0 0x80000) 64 false) with poisoned := [coreLoc 0 0x80008] }
    s.isPoisoned (coreLoc 0 0x80000 + 8) = true ∧ (s.core 0).restarting = false ∧ (s.core 0).badRec = none ∧
      TileOp.scrubHeld (.opa 1 10 false 0 (coreLoc 0 0x80000) 64 false) s = false := by decide +kernel

/-- A check of core 0 that is due, in its open or in its closed segment. -/
def checked (kind : CheckKind) (fails : Bool) (rec : Option (Word × Bool)) (closed : Bool) : State :=
  let k : Check := ⟨kind, 0, 64, false, fails, [3]⟩
  st fun c => { c with
    failRec := rec
    seg := { c.seg with checks := if closed then [] else [k] }
    pending := if closed then some { Segment.opened 0 false with checks := [k] } else none }
theorem wit_ChecksAndStrikes_check : ([CheckKind.cmpt, .residue, .witness, .atomicPair].all fun kind => [false, true].all fun closed =>
      (knownCheck (checked kind false none closed) 0 [kind]).isSome &&
      (match knownCheck (checked kind true none closed) 0 [kind] with
        | some k => k.fails && decide (((checked kind true none closed).core 0).failRec ≠ some (k.pc, k.space))
        | none => false) &&
      match knownCheck (checked kind true (some (64, false)) closed) 0 [kind] with
        | some k => k.fails && decide (((checked kind true (some (64, false)) closed).core 0).failRec = some (k.pc, k.space))
        | none => false) = true := by decide +kernel
/-- A core that has been rolled back and may restart, and a region that waits for its scrub. -/
def struck : State := { (runs [] [] [] fun c => { c with restarting := true, holdUntil := 8 }) with cyc := 8, scrubbing := [.core 0] }
theorem wit_ChecksAndStrikes_strike : (struck.core 0).restarting = true ∧ (struck.core 0).holdUntil ≤ struck.cyc.toNat ∧
    0 ∈ struckCores struck (.core 0) ∧ 1 ∉ struckCores struck (.core 0) ∧ struck.scrubbing = [.core 0] ∧ struck.leftAt ≠ 9 ∧
    (struck.cores.all fun e => decide (e.2.comAt ≠ 9)) = true ∧
    (let s := struck.onCore 0 fun c => { c with comAt := 9 }; (s.cores.any fun e => decide (e.2.comAt = s.cyc.toNat + 1)) = true) := by decide +kernel

/-! ### Routines -/

/-- The body of two bundles with the word `w`, a mark of its own before the second. -/
def body1 (w : Nat) : Store Bundle := [(4, bundle1 0 1 w), (5, bundle1 0x4000 1 w)]
/-- Its entries in the tables: of step grade a residue sum, else a copy. -/
def routine1 (step : Bool) : Routine :=
  ⟨⟨[], bit step, true, 2, 1 + bit step, 0, printedDigest (if step then 0xe48d07b65c39a21f9d6047ec31a8f5b2 else 0x38f6b1d4e02a7c955a8b0d63f9e126c4), []⟩, 0, 4⟩
/-- A body of core 0 at its end. -/
def atBodyEnd : State := runs [] (body1 0) [routine1 false] fun c => { c with work := { c.work with
  pc := 160, space := true, prof := 1
  frames := [⟨[], 0, 0, [], [], [Loop.idle, Loop.idle, Loop.idle, Loop.idle], 0, 0, 2, false, 1, 32, false, 5, [], 0, false, [], [], 0, none, none, none⟩] } }
theorem wit_RoutinesRun_return : let c := atBodyEnd.core 0
    (c.work.frames.head?.map fun f => (f.inserted, f.flagN)) = some (false, 5) ∧ c.run = .running ∧ c.sync = none ∧ c.saveKind = none ∧ c.restarting = false ∧
    c.work.recov = none ∧ atReturn atBodyEnd c = true ∧ c.turnAt ≤ atBodyEnd.cyc.toNat ∧ c.holdUntil ≤ atBodyEnd.cyc.toNat ∧ c.markAfter = false ∧
    c.resultsWait = false ∧ c.loadsOut atBodyEnd.cyc.toNat = false ∧ bodyOutstanding atBodyEnd 0 = false ∧ (c.atMark && wantsStop atBodyEnd 0) = false ∧ c.ahead atBodyEnd.cyc.toNat = 0 := by decide +kernel

/-- The grafted call of core `c`, from its entry. -/
def call1 (c : Core) (step started : Bool) : Graft :=
  let e := c.graftRegs (routine1 step) 0 3 [] false
  ⟨⟨0, [], e, some (0, 3), 32, false, 0⟩, step, started, 0, e, false, false, false⟩
/-- A call of core 0 that a native unit runs, over a body of the word `w`. -/
def grafted (w : Nat) (step started : Bool) : State :=
  { (runs [] (body1 w) [routine1 step] fun c => { c with reserved := 1, grafts := [(9, call1 c step started)] }) with cyc := 48 }
/-- How the stretch of the call ends, by number: done, mark, trap, left to the body, waits. -/
def endCode (w : Nat) (step : Bool) : Nat :=
  match nativeCall (grafted w step true) 0 9 (call1 ((grafted w step true).core 0) step true) with
  | .done _ => 0
  | .mark _ => 1
  | .trap _ => 2
  | .stuck => 3
  | .waits => 4
theorem wit_RoutinesRun_start : [false, true].all (fun step => let s := grafted 0 step false
    Store.sortedFrom 0 (s.core 0).grafts && (s.imageOf (s.core 0)).routines[0]?.isSome && decide ((s.core 0).run = .running) &&
      match graftEntry s (s.core 0) 0 with
      | some e => unitFree s (s.core 0) 9 e.unit && decide (e.stepGrade = step)
      | none => false) = true := by decide +kernel
/-- An ADD: a whole-grade call ends, a step-grade one stands at its mark; one entered there ends too. -/
theorem wit_RoutinesRun_completion : endCode 0x01041000 false = 0 ∧ endCode 0x01041000 true = 1 ∧
    graftGoes (grafted 0x01041000 false true) 0 9 (call1 ((grafted 0x01041000 false true).core 0) false true) = true ∧
    graftGoes (grafted 0x01041000 true true) 0 9 (call1 ((grafted 0x01041000 true true).core 0) true true) = true := by decide +kernel
/-- TRAP s0 is opcode 0x20 of the S slot. -/
theorem wit_RoutinesRun_fault : [false, true].all (fun step => decide (endCode 0x80000000 step = 2)) = true := by decide +kernel

/-- A call inserted at core 0. -/
def inserting (i : Inserted) : State := runs [] (body1 0) [routine1 false] fun c => { c with inserts := [i] }
theorem wit_RoutinesRun_inserted : ([none, some Regs.reset].all fun b =>
      let i : Inserted := ⟨0, [1, 2, 3, 4, 5, 6, 7, 8], none, some (0, 3), b, true⟩
      let c := (inserting i).core 0
      insertReady c && !runHeld (inserting i) i && decide (((inserting i).imageOf c).routines[0]?.map (fun m => tilesAllowed ((inserting i).imageOf c) m i.q) = some true) &&
        (insertGraft (inserting i) 0 i).isNone && c.work.frames.isEmpty && !c.work.owed) = true := by decide +kernel
/-- A compensating run that the copy engine takes. -/
theorem wit_RoutinesRun_insertedGraft : let i : Inserted := ⟨0, [0, 0, 0, 0, 0, 0, 0, 0], some 7, none, none, false⟩
    insertReady ((inserting i).core 0) = true ∧ (insertGraft (inserting i) 0 i).isSome = true ∧ graftsOut ((inserting i).core 0) = 0 ∧
      ((inserting i).core 0).grafts = [] := by decide +kernel
/-- An inserted call of core 0 that is over. -/
def insertedOver : State := st fun c => { c with comp := some ⟨0, [], none, some (0, 3), none, true⟩, reserved := 1 }
theorem wit_RoutinesRun_over : let c := insertedOver.core 0
    c.comp = some ⟨0, [], none, some (0, 3), none, true⟩ ∧ c.work.frames.any (·.inserted) = false ∧ c.com.frames.any (·.inserted) = false ∧ c.grafts = [] ∧
    c.inserts = [] ∧ c.seg.binds (0, 3) = false ∧ insertedOver.ops = [] ∧ c.pending = none ∧ c.heldStores = [] ∧ c.opaq = [] := by decide +kernel

end Sys2Proof.Tests
end

