-- ==== Sys2Proof/Tests/Events2.lean ====
section
/-! SUPPORT. Witnesses for the statements about engines, homes, contexts and tasks. -/

set_option Elab.async false

namespace Sys2Proof.Tests

open Sys2Proof Sys2Proof.Machine Sys2Proof.Safety

/-! ### Engines -/

/-- A descriptor of `n` consecutive elements. -/
def copyDesc (sva dva esize cva n : Nat) : Desc :=
  BitVec.ofNat 1024 (sva + dva * 2 ^ 64 + esize * 2 ^ 128 + cva * 2 ^ 144 + n * 2 ^ 208 + esize * 2 ^ 228 + esize * 2 ^ 268 +
    ((List.range 5).map fun d => 2 ^ (308 + 100 * d)).sum)

/-- An operation of core 0 with flag 3. -/
def engineOp (kind : CmdKind) (desc : Desc) (b : Word) (stage : OpStage) : EngineOp :=
  ⟨⟨kind, desc, b, 0, some (0, 3), 5, 64, false, 0⟩, 0, 0, stage, 0, [], none, none, none, none, 0, none, (0, 0), false⟩

/-- Core 0 with all banks and operations under way. -/
def operating (ops : Store EngineOp) : State := { banked [] with ops := ops }

def copying (cva : Nat) : State := operating [(2, engineOp .cpy (copyDesc 0x40 0x80 8 cva 2) 0 .running)]
theorem wit_EngineOperations_completion : [0, 0x10000000].all (fun cva => let s := copying cva
      match Store.find? s.ops 2 with
      | some o => decide (o.stage = .running) && !opBlocked s o && (completedState s 2 o).isSome && o.savedAt.isNone && o.limit.isNone && decide (o.origin.1 = 0) && decide (o.object.isSome = decide (cva ≠ 0)) &&
          Memory.wf s.mem && Store.sortedFrom 0 s.ops && (s.core 0).heldStores.isEmpty && (s.core 0).opaq.isEmpty && !handsOver s o && s.records.isEmpty && !s.scrubs (tunLoc 0 0)
      | none => false) = true := by decide +kernel
/-- Its source is uncorrectable. -/
def badCopy (cva : Nat) : State := { copying cva with poisoned := [coreLoc 0 0x40] }
theorem wit_EngineOperations_fault : [0, 0x10000000].all (fun cva => let s := badCopy cva
      match Store.find? s.ops 2 with
      | some o => decide (o.stage = .running) && !opBlocked s o && decide (opError s 2 o = some (4, 0)) && o.savedAt.isNone && o.mate.isNone && decide (o.origin.1 = 0) && s.records.isEmpty && decide (o.object.isSome = decide (cva ≠ 0)) &&
          Memory.wf s.mem && Store.sortedFrom 0 s.ops && (s.core 0).heldStores.isEmpty && (s.core 0).opaq.isEmpty
      | none => false) = true := by decide +kernel
/-- A SEND of 2 elements and a RECV of `n`. -/
def matching (n : Nat) : State :=
  { operating [(2, engineOp .send (copyDesc 0x40 0 8 0 2) 7 .waiting), (3, engineOp .recv (copyDesc 0 0x80 8 0 n) 7 .waiting)] with channels := [(7, ⟨0, 0, [2], [3], 0, []⟩)] }
theorem wit_EngineOperations_match : Store.sortedFrom 0 (matching 2).ops = true ∧ Store.find? (matching 2).channels 7 = some ⟨0, 0, [2], [3], 0, []⟩ ∧
    (engineOp .send (copyDesc 0x40 0 8 0 2) 7 .waiting).bytes = (engineOp .recv (copyDesc 0 0x80 8 0 2) 7 .waiting).bytes ∧
    (engineOp .send (copyDesc 0x40 0 8 0 2) 7 .waiting).bytes ≠ (engineOp .recv (copyDesc 0 0x80 8 0 3) 7 .waiting).bytes := by decide +kernel
/-- A SEND on channel 7 to core `p`, asked again at cycle `x`. -/
def reaching (p x : Nat) : State := { operating [(2, engineOp .send (copyDesc 0x40 0 8 0 2) 7 .waiting)] with channels := [(7, ⟨0, p, [2], [], x, []⟩)] }
theorem wit_EngineOperations_peer : Store.sortedFrom 0 (reaching 1 0).ops = true ∧ Store.find? (reaching 1 0).channels 7 = some ⟨0, 1, [2], [], 0, []⟩ ∧ remote 1 = false ∧
    remote 1024 = true ∧ ((reaching 1024 0).link (channelLink 7)).up = false ∧ (({ reaching 1024 0 with links := [(channelLink 7, ⟨true, 0, 0, 0, [], 0⟩)] } : State).link (channelLink 7)).up = true ∧ 0 ≤ (reaching 1024 0).cyc.toNat ∧ (reaching 1024 9).cyc.toNat < 9 := by decide +kernel
/-- A CKPT with tag 1, and an activity whose footprint is `tag`. -/
def gated (tag : BitVec 32) : State :=
  { operating [(2, engineOp .ckpt (copyDesc 0x40 0x80 8 0 2) 1 .waiting)] with
    acts := [(0, ⟨.open, 0, tunLoc 0 0, 0, 0, 0, 0, 0, false⟩)], records := [⟨1, 0, false, false, 0, 0, tag, [], 0⟩] }
theorem wit_EngineOperations_gate : ((gated 1).acts.all fun e => decide (e.2.state = .open) && decide (footprint (gated 1) e.1 &&& 1 ≠ 0)) = true ∧
    ((gated 2).acts.all fun e => decide (footprint (gated 2) e.1 &&& 1 = 0)) = true := by decide +kernel

/-- Beyond its elements a descriptor names no byte. -/
theorem destOf_beyond (s : State) (o : EngineOp) (j : Nat) (h : (destVAs o.cmd.desc).length ≤ j) : destOf s o j = [] := by
  simp [destOf, List.getElem?_eq_none h]
/-- `apart` looks at no more than the elements that there are. -/
theorem apart_of_bounded {s : State} {o : EngineOp} {j : Nat} (h : (destOf s o j).Nodup ∧ s.records = [] ∧
    ∀ i < (destVAs o.cmd.desc).length, (i ≠ j → ∀ a ∈ destOf s o j, a ∉ destOf s o i) ∧ ∀ a ∈ sourceOf s o j, a ∉ destOf s o i) : apart s o j := by
  refine ⟨h.1, fun a _ => by simp [outsideRecords, h.2.1], fun i => ?_⟩
  rcases Nat.lt_or_ge i (destVAs o.cmd.desc).length with hi | hi
  · exact h.2.2 i hi
  · simp [destOf_beyond s o i hi]
/-- A CPY, a row copy and a RACK that keeps the first `b` of two elements. -/
def movingBytes (kind : CmdKind) (b : Word) : EngineOp := engineOp kind (copyDesc 0x40 0x80 8 0 2) b .running
theorem wit_EngineOperations_bytes : [(CmdKind.cpy, 0), (.cpyt, 0), (.rack, 0x100001), (.ckpt, 0)].all (fun (kind, b) =>
      let s := operating [(2, movingBytes kind b)]; let o := movingBytes kind b
      (completedState s 2 o).isSome && formOk s o.core o.cmd && o.limit.isNone && decide ((destVAs o.cmd.desc).length = 2) && o.cmd.valid 0 && decide (o.cmd.valid 1 = decide (kind ≠ .rack)) &&
      decide ((destOf s o 1).length = 8) && decide ((sourceOf s o 1).length = 8) && decide (allDest s o = (List.range 16).map fun k => coreLoc 0 (0x80 + k))) = true := by decide +kernel
theorem wit_EngineOperations_apart (j : Nat) (h : j < 2) : apart (operating [(2, movingBytes .cpy 0)]) (movingBytes .cpy 0) j := by
  refine apart_of_bounded ⟨?_, rfl, ?_⟩ <;> interval_cases j <;> decide +kernel
theorem wit_EngineOperations_plain : [CmdKind.send, .migr, .drain, .pref].all (fun kind =>
      let o := { movingBytes kind 7 with result := some [] }
      (completedState { operating [(2, o)] with channels := [(7, ⟨0, 0, [], [], 0, []⟩)] } 2 o).isSome) = true := by decide +kernel
/-- A RECV of 16 bytes matched with a SEND here, or whose bytes flits have brought. -/
def receiving (here : Bool) : State :=
  { operating [(2, { engineOp .send (copyDesc 0x40 0 8 0 2) 7 .running with mate := some 3 }), (3, { engineOp .recv (copyDesc 0 0x80 8 0 2) 7 .running with mate := if here then some 2 else none })] with
    channels := [(7, if here then ⟨0, 0, [], [], 0, []⟩ else ⟨1024, 0, [], [], 0, (List.range 16).map fun k => BitVec.ofNat 8 k⟩)] }
theorem wit_EngineOperations_received : [false, true].all (fun here => let s := receiving here
      match Store.find? s.ops 2, Store.find? s.ops 3 with
      | some q, some o => (completedState s 3 o).isSome && decide (allDest s o).Nodup && decide ((allDest s o).length = 16) && decide (o.bytes = 16) && decide (o.bytes = q.bytes) &&
          decide (remote (channelOf s o).sender = !here) && decide (o.mate = if here then some 2 else none) && s.records.isEmpty
      | _, _ => false) = true := by decide +kernel
/-- Cores 0 and 1 add two 64-bit elements. -/
def reducing : State :=
  let o := engineOp .redx (copyDesc 0x40 0x80 8 0 2) 5 .running
  let o := { o with cmd := { o.cmd with f := 12 } }
  let s := operating [(2, o), (3, { o with core := 1, origin := (1, 0) })]
  { s.setCore 1 { s.core 1 with bown := BitVec.allOnes 32, run := .running } with
    redGroups := [(5, ⟨[0, 1], [(0, 2), (1, 3)], 0, false, []⟩)] }
theorem wit_EngineOperations_reduced : (let s := reducing
    let gives (o : EngineOp) := match sourceElems s o with
      | .ok l => decide (l = [0, 0])
      | .error _ => false
    match Store.find? s.ops 2, Store.find? s.ops 3, Store.find? s.redGroups (5 % 65536) with
    | some o, some q, some g => (completedState s 2 o).isSome && o.result.isNone && !g.failed && decide (redxEntries g = some [(0, 2), (1, 3)]) &&
        redxAgrees s g [(0, 2), (1, 3)] && !remote 0 && !remote 1 && [o, q].all fun x => decide (x.stage = .running) && !opBlocked s x && gives x
    | _, _, _ => false) = true := by decide +kernel

/-! ### Homes -/

def request (op : AtomOp) (width : Nat) (src seq operand : Nat) : AtomReq :=
  ⟨[⟨src, src, seq, 7, 0, BitVec.ofNat 64 operand⟩], op, tunLoc 0 0, width, decide (width = 2), 5, [], 0, false⟩
/-- A request of core 0 that its home may apply, and what the window holds. -/
def arriving (op : AtomOp) (width : Nat) (window : List (Nat × Nat × Nat × Word × BitVec 6)) : State :=
  { (st fun c => { c with value := [⟨7, .barr 3 (tunLoc 0 0), 1, none, [], 0⟩] }) with
    reqs := [(4, request op width 0 9 3)], nextReq := 5, window := window, mem := [(tunLoc 0 0, 5)] }
theorem wit_AtomicsAtHome_apply : [(AtomOp.add, 8), (.min, 4), (.max, 4), (.minu, 4), (.maxu, 4), (.and, 8), (.or, 8), (.xor, 8), (.exch, 8), (.cas, 8), (.fadd, 2),
      (.fadd, 4), (.arrive, 8)].all (fun (op, w) => let s := arriving op w []
      Memory.wf s.mem && decide (Store.find? s.reqs 4 = some (request op w 0 9 3)) && atomReady s 4 (request op w 0 9 3) && [2, 4, 8].contains w &&
      decide ((windowFind s (tunLoc 0 0) ⟨0, 0, 9, 7, 0, 3⟩).isNone) && !staleTag s (tunLoc 0 0) ⟨0, 0, 9, 7, 0, 3⟩ && ((List.range w).all fun k => !s.isPoisoned (tunLoc 0 0 + k)) &&
      (s.core 0).awaits 7 && (s.core 0).valueBack.isEmpty && s.records.isEmpty && !(s.core 0).restarting && decide ((s.core 0).badRec ≠ some ((s.core 0).com.lastPc, (s.core 0).com.lastSpace)) &&
      atomReady { s with poisoned := [tunLoc 0 0] } 4 (request op w 0 9 3) && State.isPoisoned { s with poisoned := [tunLoc 0 0] } (tunLoc 0 0) && decide ((windowFind (arriving op w [(tunLoc 0 0, 0, 9, 1, 0)]) (tunLoc 0 0) ⟨0, 0, 9, 7, 0, 3⟩) = some (1, 0)) &&
      atomReady (arriving op w [(tunLoc 0 0, 0, 9, 1, 0)]) 4 (request op w 0 9 3)) = true := by decide +kernel
def merging : State := { State.reset with reqs := [(4, request .add 8 0 9 3), (6, request .add 8 1 2 4)], nextReq := 7 }
theorem wit_AtomicsAtHome_merge : [6, 4].filterMap (Store.find? merging.reqs) = [request .add 8 1 2 4, request .add 8 0 9 3] ∧
    mergeOk merging [6, 4] [request .add 8 1 2 4, request .add 8 0 9 3] = true ∧ ∀ e ∈ merging.reqs, e.1 < merging.nextReq := by decide +kernel

/-! ### Contexts -/

/-- Core 0 holds a trap that it has not taken; where `busy`, an older segment is still to commit. -/
def holding (busy : Bool) : State := st fun c => { c with
  run := .running, sync := some ⟨6, 0, 64, false, 1⟩, pending := if busy then some (Segment.opened 0 false) else none }
theorem wit_ContextsMove_trap : [false, true].all (fun b => let c := (holding b).core 0
      c.sync.isSome && c.comp.isNone && c.saveKind.isNone && !c.restarting && decide (c.readyToSave = !b) && decide (c.preempt = .none) && c.breakNow.isNone) = true ∧
    Core.breakNow ((State.setCore (holding false) 0 { (holding false).core 0 with breakNow := some [] }).core 0) = some [] ∧
    Core.preempt ((State.setCore (holding false) 0 { (holding false).core 0 with preempt := .hard 2 }).core 0) = .hard 2 := by decide +kernel
/-- A report waits for a mark of core 0, which has issued `n` bundles since its last. -/
def reporting (n sub : Nat) : State := runs [(0, bundle1 0x2000 4 0x0C400000)] [] [] fun c => { c with async := [⟨3, sub, 64, false, 1⟩], work := { c.work with bno := n } }
theorem wit_ContextsMove_report : [(0, 3), (0, 5), (1, 3)].all (fun (n, sub) => let c := (reporting n sub).core 0
      !stopsFirst (reporting n sub) 0 && decide (c.preempt = .none) && c.active && !c.sup && c.sync.isNone && c.saveKind.isNone && !c.restarting && decide (c.atMark = decide (n = 0)) && (n != 0 || c.readyToSave)) = true ∧ stopsFirst (st fun c => { c with run := .running, async := [⟨3, 3, 64, false, 1⟩], work := { c.work with pc := 64 } }) 0 = true := by
  decide +kernel
/-- A pre-emption of core 0. -/
def preempted (q : Preempt) (n cyc : Nat) : State :=
  { (st fun c => { c with run := .running, preempt := q, work := { c.work with bno := n } }) with cyc := BitVec.ofNat 64 cyc }
theorem wit_ContextsMove_preemption : ((preempted .none 0 0).core 0).active = true ∧ [0, 1].all (fun n => let c := (preempted (.soft 1 0) n 0).core 0
      c.active && c.saveKind.isNone && !c.sup && c.sync.isNone && c.async.isEmpty && !c.restarting && c.softDue && c.pending.isNone && decide (c.atMark = decide (n = 0))) = true ∧
    ((preempted (.hard 2) 1 0).core 0).sup = false ∧ (groupOf (preempted (.soft 1 0) 0 262144) 0).isNone = true ∧
    inTakeover (preempted .none 0 0) 0 = false ∧ inTakeover { preempted (.soft 3 0) 0 0 with scheds := [(0, ⟨[], true, true, [], [], 0⟩)] } 0 = true ∧
    (0 + 262144 : Nat) ≤ (preempted (.soft 1 0) 0 262144).cyc.toNat ∧ (preempted (.soft 1 0) 0 262143).cyc.toNat < 0 + 262144 := by decide +kernel
/-- Core 0 of context 5 with a save area at 2^32, about to be saved. -/
def leaving : State :=
  savable fun c => { c with run := .running, ctx := 5, bown := 3, saveKind := some 1, com := { c.com with pc := 96 } }
theorem wit_ContextsMove_save : let c := leaving.core 0
    Memory.wf leaving.mem = true ∧ c.saveKind = some 1 ∧ c.saveReady = true ∧ saveLoc leaving c = some 0x200000000 ∧ c.com.frames.length ≤ 4 ∧
    c.com.pend.length ≤ 128 ∧ c.grafts.length ≤ 4 ∧ c.inserts = [] ∧ inTakeover leaving c.queue = false := by decide +kernel

/-- Its core once the context has left; another one makes room where `b`. -/
def saved (b : Bool) (cyc : Nat) : State :=
  { ((after (.contextSave 0) leaving).onCore 0 fun c => if b then { c with outgoing := some (6, 0x300000000), parkAt := 64 } else c) with cyc := BitVec.ofNat 64 cyc }
theorem wit_ContextsMove_resumption : (resumable (saved false 0) 0).length = 1 ∧ ((saved false 0).core 0).free = true ∧ ((saved false 0).core 0).outgoing = none ∧
    (saved false 0).poisoned = [] ∧ areaLost { saved false 0 with poisoned := [0x200000000] } 0x200000000 = true ∧ 0x200000000 + 0x100000 ≤ sramBase ∧
    areaLost { saved false 0 with poisoned := [0x2000A0000] } 0x200000000 = false := by
  decide +kernel
theorem wit_ContextsMove_switch : [63, 64].all (fun n => let s := saved true n
      decide ((s.core 0).parked = some (5, 0x200000000)) && decide ((s.core 0).outgoing = some (6, 0x300000000)) && (s.core 0).free &&
      decide ((s.core 0).parkAt = 64) && match resumable s 0 with
        | (b, _) :: _ => decide (b = 0x200000000)
        | [] => false) = true := by decide +kernel
/-- A context on core 0 with an operation, beside one of another context; `dead` lists the contexts that are being killed. -/
def killing (ops : Store EngineOp) (dead : List Nat) : State :=
  { (st fun c => { c with run := .running, ctx := 5, bown := 3 }) with ops := ops, dead := dead }
theorem wit_ContextsMove_kill : let s := killing [(2, { engineOp .cpy 0 0 .running with ctx := 5 }), (3, { engineOp .cpy 0 0 .running with ctx := 6 })] []
    5 ∉ s.dead ∧ (s.sched (killDie s 5)).takeover = false ∧ (s.core 0).ctx.toNat = 5 ∧ (s.core 0).run ≠ .idle ∧ (s.core 0).run ≠ .saved := by decide +kernel
theorem wit_ContextsMove_killed : let s := killing [(3, { engineOp .cpy 0 0 .running with ctx := 6 })] [5]
    5 ∈ s.dead ∧ (∀ e ∈ s.ops, e.2.ctx ≠ 5) ∧ s.moves = [] ∧ s.tasks = [] ∧ s.heldArrivals = [] ∧ orphanFlits s = false ∧
    orphanFlits { s with links := [(0, ⟨true, 0, 0, 0, [(0, .send 9 0, [])], 0⟩)] } = true := by decide +kernel

/-! ### Tasks -/

/-- Core 0 at the end of its image, `n` bundles after its last mark. -/
def finishing (n : Nat) : State := runs [] [] [] fun c => { c with work := { c.work with pc := 256, bno := n } }
theorem wit_TasksRun_end : [0, 1].all (fun n => let s := finishing n; let c := s.core 0
      decide (c.run = .running) && c.sync.isNone && c.saveKind.isNone && !c.restarting && c.work.recov.isNone && atEnd s c &&
      decide (c.turnAt ≤ s.cyc.toNat) && decide (c.holdUntil ≤ s.cyc.toNat) && !c.dataHeld s.cyc.toNat && !c.markBlocked s.cyc.toNat && c.comp.isNone && c.work.opar.isNone &&
      decide (c.atMark = decide (n = 0))) = true := by decide +kernel

/-- Queue 5 of group 0, which has cluster 0 and its record ring in the cellar of die 0; the record there names image 7. -/
def queued (q : Queue) (g : Group) (tasks : Store Task) (f : Core → Core) : State :=
  { (st f) with
    parts := [⟨[0], [0]⟩]
    groups := [(0, { g with clusters := [0] })]
    queues := [(5, { q with conf := ⟨0x100, 0x20001000, 2, 3, 1, 0, 0, 0⟩ })]
    tasks := tasks
    images := [(0, { imageOf8 [] [] [] with kimg := 7, entry := 64, banks := 1, ctx := 5 })]
    mem := [(cellarLoc 0 0x114, 1), (cellarLoc 0 0x1000, 7)] }
/-- A task of queue 5 on two cores, one of which has ended. -/
def task (ended : List Nat) : Task := ⟨5, [0, 1], ended, [], 5, 0, 9, 0, false, false, 0⟩
def reportsEnd (l : List Nat) : State :=
  queued { Queue.none with running := true } { Group.none with running := some 5 } [(5, task l)] fun c => { c with run := .ending, queue := 5 }
theorem wit_TasksRun_report : [[], [1]].all (fun l => let s := reportsEnd l
      decide ((s.core 0).run = .ending) && endReady s 0 && decide (Store.find? s.tasks (s.core 0).queue = some (task l))) = true := by decide +kernel
/-- Queue 5 as its kick finds it. -/
def kicked (ctl : Byte) (tail : Byte) (fns : List Nat) : State :=
  { queued Queue.none Group.none [] id with
    kicks := 1#4096 <<< 5
    parts := [⟨[0], fns⟩]
    mem := if tail = 0 then [] else [(cellarLoc 0 0x114, tail)]
    queues := [(5, { Queue.none with conf := ⟨0x100, 0x20001000, 2, ctl, 1, 0, 0, 0⟩ })] }
theorem wit_TasksRun_doorbell : (queuePartition (kicked 3 1 [0]) 5 = some 0 ∧ (((kicked 3 1 [0]).parts[0]?.map fun t => t.functions.contains 0) = some true)) ∧
    queuePartition (kicked 3 1 [0]) 6 = none := by decide +kernel
theorem wit_TasksRun_scan : let n (s : State) := (BitVec.ofNat 32 (s.readNat (queueLoc s 5 + 20) 4) - (s.queue 5).head).toNat
    (kicked 3 1 [0]).kicks.getLsbD 5 = true ∧ ((kicked 3 1 [0]).sched (queueDie (kicked 3 1 [0]) 5)).takeover = false ∧ (kicked 3 1 [0]).kicks.getLsbD 5 = true ∧
    ((kicked 3 1 [0]).queue 5).conf.ctl.getLsbD 0 = true ∧ ((kicked 3 1 [0]).queue 5).disabled = false ∧ n (kicked 3 4 [0]) ≤ 2 ^ 2 ∧ 2 ^ 2 < n (kicked 3 5 [0]) ∧
    funcOk (kicked 3 1 [0]) 5 = true ∧ funcOk (kicked 3 1 [1]) 5 = false := by decide +kernel
def launching : State := queued { Queue.none with candidates := 1 } { Group.none with chosen := some 5 } [] id
theorem wit_TasksRun_launch : let s := launching
    (s.group 0).chosen = some 5 ∧ (s.group 0).running = none ∧ 5 ∉ (s.group 0).saved ∧ launchable s 5 = true ∧ (s.sched 0).takeover = false ∧
    (s.queue 5).conf.group.toNat = 0 ∧ (s.group 0).die = 0 ∧ headRecord s 5 = some (cellarLoc 0 0x1000) ∧ recRefused s 5 (cellarLoc 0 0x1000) = false ∧
    recDepends s 5 (cellarLoc 0 0x1000) = (true, none) ∧ ((recImage s 5 (cellarLoc 0 0x1000)).map Prod.fst) = some 0 ∧
    ((((List.range 80).filter (s.group 0).clusters.contains).flatMap fun c => strided (8 * c) 1 8) = List.range 8) ∧
    ((List.range 8).all fun k => (s.core k).free) = true := by decide +kernel
def completing : State :=
  { queued { Queue.none with running := true, candidates := 1 } { Group.none with running := some 5 } [(5, { task [0, 1] with ended := [0, 1] })] id with scheds := [(0, ⟨[], false, true, [], [0], 0⟩)] }
theorem wit_TasksRun_completion : let s := completing
    (s.sched (s.group 0).die).takeover = false ∧ (s.sched (s.group 0).die).ends = [0] ∧ (s.group 0).running = some 5 ∧ Store.find? s.tasks 5 = some { task [0, 1] with ended := [0, 1] } ∧
    [0, 1].all [0, 1].contains = true ∧ Store.sortedFrom 0 s.tasks = true ∧ (s.queue 5).conf.group.toNat = 0 := by decide +kernel
def choosing : State := queued { Queue.none with candidates := 1 } Group.none [] id
theorem wit_TasksRun_choice : let u := refreshRunnable 0 choosing
    (u.group 0).running = none ∧ (u.group 0).chosen = none ∧ (u.group 0).runnable = [5] ∧ (u.sched (u.group 0).die).takeover = false ∧
    nextRunOf u (u.group 0) 5 ≤ (u.group 0).slice := by decide +kernel
def overrunning : State := st fun c => { c with run := .running, issued := 3, stated := 1 }
/-- Queue 5 runs on group 0 and yields for 100 cycles; queue 6, whose record names image 7 too, waits for the same group where `other`. -/
def yielding (other : Bool) : State :=
  let s := queued { Queue.none with running := true, pass := 3 } { Group.none with running := some 5, asked := some 100, runnable := [5, 6] } [(5, task [])]
    fun c => { c with run := .running, queue := 5 }
  { s with
    queues := s.queues ++ [(6, { Queue.none with candidates := if other then 1 else 0, pass := 1, conf := ⟨0x200, 0x20002000, 2, 3, 1, 0, 0, 0⟩ })]
    mem := [(cellarLoc 0 0x114, 1), (cellarLoc 0 0x214, 1), (cellarLoc 0 0x1000, 7), (cellarLoc 0 0x2000, 7)]
    cyc := 300 }
/-- The choice after the charge: queue 5 itself where it alone is runnable, queue 6 of less PASS otherwise. -/
theorem wit_TasksRun_leading : [false, true].all (fun other =>
      let u := refreshRunnable 0 (yielding other); let g := u.group 0
      let w := charge 0 5 100 u
      decide (g.running = some 5) && decide (g.asked = some 100) && g.runnable.contains 5 && decide (g.runnable.contains 6 = other) && decide ((u.sched g.die).takeover = false) &&
      decide ((choose w (w.group 0) (w.group 0).r).1 = some (if other then 6 else 5)) && decide (nextRunOf w (w.group 0) 5 = 100) && decide (placedCores (yielding other) 5 = [0, 1]) &&
      ((yielding other).core 0).active && decide (((yielding other).core 0).preempt = .none) && ((yielding other).core 0).saveKind.isNone) = true := by decide +kernel
/-- The ways of a service command: a physical function of a package in operation, a VF, the management port closed and open, the package itself. -/
theorem wit_ways : let s := { State.reset with stage := .ready }
    mailboxTakes (.function 0) s = true ∧ mailboxTakes (.function 9) s = false ∧ s.physical 9 = false ∧ s.presents 9 = true ∧ s.presents 400 = false ∧
    mailboxTakes .management s = false ∧ s.mailboxOpen = false ∧ mailboxTakes .management { s with mailboxOpen := true } = true ∧
    mailboxTakes .management { State.reset with mailboxOpen := true } = false ∧ mailboxTakes .package State.reset = true := by decide +kernel
theorem wit_TasksRun_rows : rowsWait launching (queueLoc launching 5 + 20) 4 = false ∧ rowsLost launching (queueLoc launching 5 + 20) 4 = false ∧
    rowsLost { launching with poisoned := [queueLoc launching 5 + 16] } (queueLoc launching 5 + 20) 4 = true ∧
    recRows rowsWait launching 5 (cellarLoc 0 0x1000) = false ∧ recRows rowsLost launching 5 (cellarLoc 0 0x1000) = false := by decide +kernel
theorem wit_TasksRun_overrun : let c := overrunning.core 0
    c.active = true ∧ 2 * c.stated < c.issued ∧ c.overAt < c.issued ∧ c.preempt = .none ∧ c.saveKind = none ∧ c.overruns = true ∧
    Core.mayOverrun { c with preempt := .soft 3 0 } = true ∧ Core.mayOverrun { c with preempt := .soft 1 0 } = false := by decide +kernel
def scheduling (takeover ready : Bool) : State := { choosing with scheds := [(0, ⟨[], takeover, ready, [.kill (.package, 3)], [], 0⟩)] }
theorem wit_TasksRun_takeover : ((scheduling false true).sched 0).takeover = false ∧ ((scheduling false true).sched 0).standbyReady = true ∧
    ((scheduling false false).sched 0).standbyReady = false ∧ ((scheduling true false).sched 0).takeover = true := by decide +kernel

end Sys2Proof.Tests
end

