-- ==== Sys2Proof/Tests/Events3.lean ====
section
/-! SUPPORT. Witnesses for the statements about service commands, translation, the package, steps and invariants. -/

set_option Elab.async false

namespace Sys2Proof.Tests

open Sys2Proof Sys2Proof.Machine Sys2Proof.Safety

/-! ### Service commands -/

theorem wit_ServiceCommands_held : ((scheduling true false).sched 0).takeover = true ∧ ((scheduling true false).group 0).die = 0 ∧ killDie (scheduling true false) 5 = 0 ∧
    (5 : Nat) < 4096 ∧ (4096 : Nat) ≤ 4096 ∧ ((0 : BitVec 16).toNat < 80 ∧ 80 ≤ (80 : BitVec 16).toNat) := by decide +kernel
/-- Activities of contexts 5 and 6, each failed with two; the records entangle them where their tags overlap. -/
def active (a b : ActState) (ctx : Nat) (tag : BitVec 32) : State :=
  { State.reset with
    acts := [(0, ⟨a, 5, tunLoc 0 0, 0, 0, 0, 9, 2, false⟩), (1, ⟨b, ctx, tunLoc 0 8, 0, 0, 0, 9, 2, false⟩)]
    records := [⟨1, 0, true, false, 0, 0, 1, [], 0⟩, ⟨2, 1, true, false, 0, 0, tag, [], 1⟩] }
theorem wit_ServiceCommands_solera : ((active .open .open 5 1).sched 0).takeover = false ∧ Store.sortedFrom 0 (active .failed .open 5 1).acts = true ∧
    (Store.find? (active .failed .failed 5 1).acts 0).map (·.state) = some .failed ∧
    (active .failed .failed 5 1).acts.countP (fun e => decide (e.2.state = .failed) && decide (e.2.merged = 9)) = 2 ∧
    (active .failed .open 5 1).acts.countP (fun e => decide (e.2.state = .failed) && decide (e.2.merged = 9)) ≠ 2 ∧ (Store.find? (active .open .open 5 1).acts 0).map (·.state) = some .open ∧
    entanglement (active .open .open 5 2) [0] = none ∧ (entanglement (active .open .open 5 1) [0]).isSome = true ∧
    (Store.find? (active .open .open 6 2).acts 1).map (·.ctx) = some 6 := by decide +kernel
/-- Clusters 0 and 1 are a partition's and cluster 2 another's; group 7 has cluster 1. -/
theorem wit_ServiceCommands_clusters : let s := { State.reset with parts := [⟨[0, 1, 3], []⟩, ⟨[2], []⟩], groups := [(7, { Group.none with clusters := [1] })] }
    groupOk s 4 [0, 3] = true ∧ groupOk s 4 [0, 2] = false ∧ groupOk s 4 [0, 1] = false ∧ groupOk s 7 [0, 1] = true ∧ groupOk s 4 [9] = false ∧ partitionOf s 0 ≠ none := by
  decide +kernel
theorem wit_ServiceCommands_groups : (State.reset.sched (((([3, 2] : List Nat).foldl min 4)) / 20)).takeover = false ∧ ([0, 1] : List Nat).Nodup ∧
    State.reset.redGroups.length < 1024 ∧ (State.reset.sched 0).takeover = false := by decide +kernel

/-! ### Translation -/

/-- A shootdown of each kind, and an entry of the buffers that it covers or not. -/
def shooting (kind : Nat) (cva : Word) : State :=
  { State.reset with shootdowns := [⟨kind, 5, 0x100000000, 4096, cva⟩], tlb := [⟨5, 0x100000000, 4096, 0, true, true⟩, ⟨6, 0x100000000, 4096, 0, true, true⟩] }
theorem wit_TranslationEvents_shootdown : (shooting 0 0x10000000).shootdowns.length = 1 ∧ Memory.wf (shooting 0 0x10000000).mem = true ∧
    cvaLoc 0 0x10000000 = some (tunLoc 0 0) := by decide +kernel
/-- The service region of die 0 and a command in its shootdown ring. -/
def ringed (kind : Byte) : State := { State.reset with regions := [(0, 0x100000)], mem := [(cellarLoc 0 0x140002, kind)] }
theorem wit_TranslationEvents_ring : regionAt (ringed 2) 0 shootdownRing = some (cellarLoc 0 0x140000) ∧ Store.get 0 (ringed 2).ringHeads 0 = 0 ∧
    (ringed 2).readNat (cellarLoc 0 0x140000 + 32 * (0 % 256) + 2) 1 = 2 ∧ 4 ≤ (ringed 4).readNat (cellarLoc 0 0x140000 + 32 * (0 % 256) + 2) 1 ∧
    rowsWait (ringed 2) (cellarLoc 0 0x140000) 32 = false ∧ rowsLost (ringed 2) (cellarLoc 0 0x140000) 32 = false ∧
    rowsWait { ringed 2 with scrubbing := [regionOf 0 (cellarLoc 0 0x140000)] } (cellarLoc 0 0x140000) 32 = true ∧
    rowsLost { ringed 2 with poisoned := [cellarLoc 0 0x140000] } (cellarLoc 0 0x140000) 32 = true := by decide +kernel
/-- A copy from a page that is not mapped. -/
def unmapped (faults : Store FaultEntry) : State := { operating [(2, engineOp .cpy (copyDesc 0x100000000 0x80 8 0 2) 0 .running)] with faults := faults }
def faultEntry : FaultEntry := ⟨0x100000000, 0, 0, false, 0, [(1, 0)], 0⟩
theorem wit_TranslationEvents_fault : [[], [(0, faultEntry)]].all (fun l => let s := unmapped l
      match Store.find? s.ops 2 with
      | some o => decide (o.stage = .running) && decide (pagedFault s o = some ⟨0, 0x100000000, false, false⟩) && Memory.wf s.mem && decide (s.faults = l) &&
          s.scrubbing.isEmpty && decide (faultEntry.ctx = o.ctx) && decide (faultEntry.va = 0x100000000) && decide (faultEntry.access = 0)
      | none => false) = true := by decide +kernel
/-- An entry of the fault ring that an operation waits for, at cycle `n`. -/
def waitingFault (n : Nat) : State :=
  { operating [(2, { engineOp .cpy (copyDesc 0x100000000 0x80 8 0 2) 0 .held with core := 0 })] with
    faults := [(1024 * 0 + 3, ⟨0x100000000, 0, 0, false, 0, [(2, 0)], 0⟩)], cyc := BitVec.ofNat 64 n }
theorem wit_TranslationEvents_answer : Store.sortedFrom 0 (waitingFault 0).faults = true ∧ Store.sortedFrom 0 (waitingFault 0).ops = true ∧
    (Store.find? (waitingFault 0).faults (1024 * 0 + 3)).isSome = true ∧ (0 : Nat) + (waitingFault (2 ^ 24)).ftoOf 0 ≤ (waitingFault (2 ^ 24)).cyc.toNat ∧
    (waitingFault 0).cyc.toNat < 0 + (waitingFault 0).ftoOf 0 := by decide +kernel
/-- The STATUS of entry 3 in the fault ring of die 0. -/
def answered (status : Byte) : State := { waitingFault 0 with regions := [(0, 0x100000)], mem := [(cellarLoc 0 (0x142000 + 32 * 3 + 11), status)] }
theorem wit_TranslationEvents_doorbell : [1, 2].all (fun n => decide (regionAt (answered n) 0 (faultRing + 32 * 3) = some (cellarLoc 0 (0x142000 + 32 * 3))) &&
    (answered n).scrubbing.isEmpty && (answered n).poisoned.isEmpty &&
    decide ((answered n).readNat (cellarLoc 0 (0x142000 + 32 * 3 + 11)) 1 = n.toNat)) = true := by decide +kernel
/-- The copy from a page that is not mapped, once its fault has been declined. -/
theorem wit_TranslationEvents_declined : (match Store.find? (after (.faultDecline 0 3) (waitingFault 0)).ops 2 with
    | some o => decide (o.stage = .running) && decide (o.limit = some (0, 2)) && !opBlocked (after (.faultDecline 0 3) (waitingFault 0)) o && decide (o.cmd.kind ≠ .cpyt)
    | none => false) = true := by decide +kernel
/-- A page on its way to the other tier; its PTE holds `word`. -/
def moving (word : Byte) (moved : Bool) (deadline : Nat) : State :=
  { operating [(2, engineOp .migr 0 0 .running)] with
    moves := [⟨2, 0, 5, 0x100000000, 4096, 0x8000, 0x2D, 0x3000, some 0x100000000000, deadline, moved⟩]
    mem := [(0x3000, 7), (0x8000, word)], gstep := 2 }
theorem wit_TranslationEvents_move : let s := moving 0x2D false 0; let u := moving 0x2C false 0
    Memory.wf s.mem = true ∧ s.readNat 0x8000 8 = 0x2D ∧ u.readNat 0x8000 8 ≠ 0x2D ∧ (0x8000 + 8 ≤ 0x100000000000 ∧ (0x3000 : Nat) + 4096 ≤ 0x100000000000) ∧
    (moving 0x2D true 2).gstep.toNat ≤ 2 := by decide +kernel
theorem wit_TranslationEvents_frames : (pageSize 0 = 4096 ∧ 0x2000 % pageSize 0 = 0 ∧ tierOf 0x2000 = 0 ∧ backedPA 0 0x2000 = true ∧ backedPA 0 (0x2000 + (pageSize 0 - 1)) = true) ∧
    tierOf 0x100000000000 = 1 ∧ backedPA 0x40000000 0x100000000000 = true ∧ backedPA 0x40000000 (0x100000000000 + (pageSize 2 - 1)) = true := by decide +kernel
def packet (poisoned : Bool) : Packet := ⟨.foreign 0x1000 2, 0, [.egress 0], poisoned, [1, 2]⟩
def egress (l : List Packet) (n : Nat) : State :=
  { State.reset with quarantine := [(0, l)], links := [(0, ⟨true, 0, 0, 0, [], 0⟩)], cyc := BitVec.ofNat 64 n }
theorem wit_TranslationEvents_foreign : foreignRange State.reset 0x1000 2 = true ∧ ((List.range 2).all fun k => !State.reset.isPoisoned (0x1000 + k)) = true ∧
    quarantined State.reset 30 = false ∧ quarantined State.reset 0 = true ∧ (Store.get [] State.reset.quarantine 0).length < 64 ∧
    (64 : Nat) ≤ (Store.get [] (egress (List.replicate 64 (packet false)) 0).quarantine 0).length ∧ compressedPages State.reset 0x1000 2 = [] := by decide +kernel
/-- Foreign accesses, and a flit, of a row that waits for its scrub; a flit behind it on its link; a read of more than a packet holds. -/
theorem wit_TranslationEvents_scrubbed : let s := { State.reset with scrubbing := [regionOf 0 0x1000], links := [(0, ⟨true, 5, 0, 0, [], 0⟩)] }
    foreignWaits s 0x1000 2 = true ∧ quarantined s 30 = false ∧ (Store.get [] s.quarantine 0).length + (2 + 262143) / 262144 ≤ 64 ∧
    foreignWaits State.reset 0x1000 300000 = false ∧ foreignRange State.reset 0x1000 300000 = true ∧ flitWaits 0 (.write 0x1000 [1, 2]) s = true ∧
    flitWaits 0 (.again 0) { State.reset with heldInputs := [.flitReceive 0 5 true (.write 0x1000 [1, 2])] } = true ∧ flitWaits 0 (.write 0x1000 [1, 2]) State.reset = false := by
  decide +kernel
/-- Host port 0 with function 0, whose partition has queue 5; queue 6 is another's. -/
def hosting : State :=
  { State.reset with
    stage := .ready, hostPorts := [0], parts := [⟨[0], [0]⟩, ⟨[1], [1]⟩]
    groups := [(0, { Group.none with clusters := [0] }), (1, { Group.none with clusters := [1] })]
    queues := [(5, { Queue.none with conf := ⟨0x100, 0x20001000, 2, 3, 1, 0, 0, 0⟩ }), (6, { Queue.none with conf := ⟨0x200, 0x20002000, 2, 3, 1, 1, 0, 0⟩ })] }
/-- It may write TAIL of its queue and records in its ring, elsewhere in memory too, and neither a descriptor nor the ring of the other queue. -/
theorem wit_TranslationEvents_append : hosting.hostPorts.contains (24 - 24) = true ∧ hosting.presents 0 = true ∧ hosting.functionPort 0 = 24 ∧
    appendOk hosting 0 (queueLoc hosting 5 + 20) 4 = true ∧ foreignRange hosting (queueLoc hosting 5 + 20) 4 = true ∧ appendOk hosting 0 0x1000 8 = true ∧
    appendOk hosting 0 (queueLoc hosting 6 + 20) 4 = false ∧ appendOk hosting 0 (cellarLoc 0 0x2000) 8 = false ∧ appendOk hosting 0 (cellarLoc 0 0x1000) 8 = true ∧
    functionHas hosting 0 6 = false ∧ hosting.hostPorts.contains (25 - 24) = false ∧ cellarSpan 0x1000 8 = false ∧ cellarSpan (cellarLoc 0 0x2000) 8 = true := by
  decide +kernel
/-- A page that has moved and not arrived; a page of a device that has failed. -/
theorem wit_TranslationEvents_moved : let s := moving 0x2D true 2; let u := { moving 0x2D false 2 with tiers := [[0x40000000]], failedDevices := [(0, 0)], cxlSize := 0x40000000 }
    currentLoc s 0x3008 = 0x100000000008 ∧ currentLoc s 0x4000 = 0x4000 ∧ frameFailed s 0x3000 4096 = false ∧ frameFailed u 0x100000000000 4096 = true ∧
    frameFailed u 0x3000 4096 = false := by decide +kernel

/-! ### The package -/

theorem wit_PackageEvents_stages : [1, 2, 3].all (fun n => !State.reset.fails n && ({ State.reset with failing := [n] } : State).fails n) = true ∧
    registerOpens .pcap { State.reset with stage := .rom } = false ∧ registerOpens .hostmask State.reset = true ∧ registerOpens (.crbase 0) State.reset = false ∧
    registerOpens (.crbase 0) { State.reset with stage := .ready } = true ∧ registerOpens (.msix 9 0 0) { State.reset with stage := .ready } = true := by decide +kernel
theorem wit_PackageEvents_bringUp : (after .coldReset State.reset).stage = .trustedBase ∧ ({ State.reset with stage := .service } : State).stage = .service := by
  decide +kernel
/-- Link 0 in service after some replays of the next flit. -/
def linked (replays : Nat) : State := { State.reset with links := [(0, ⟨true, 5, 0, replays, [(7, .kept, [])], 0⟩)] }
theorem wit_PackageEvents_link : (4 : Nat) < 2 ^ 20 ∧ (5 + 2 ^ 20 - 4) % 2 ^ 20 < 2 ^ 19 ∧ 2 ^ 19 ≤ (5 + 2 ^ 20 - 6) % 2 ^ 20 ∧ ((linked 14).link 0).up = true ∧ ((linked 14).link 0).rx = 5 ∧
    ((linked 14).link 0).replays < 15 ∧ 15 ≤ ((linked 15).link 0).replays ∧ ((linked 15).link 0).replays < 16 ∧ (7 + 2 ^ 20 - 8 % 2 ^ 20) % 2 ^ 20 ≥ 2 ^ 19 ∧ (7 + 2 ^ 20 - 7 % 2 ^ 20) % 2 ^ 20 < 2 ^ 19 ∧ ((linked 0).link 9).up = false ∧ (linked 0).ops = [] := by decide +kernel
theorem wit_PackageEvents_packet : Store.get [] (egress [packet false] 48).quarantine 0 = [packet false] ∧
    (packet false).readAt + Config.commitDelay ≤ (egress [packet false] 48).cyc.toNat ∧ ((egress [packet false] 48).link 0).up = true ∧ bufferRoom ((egress [packet false] 48).link 0) (packet false) = true ∧
    bufferRoom ⟨true, 0, 0, 0, List.replicate 1024 (0, .kept, []), 0⟩ (packet false) = false ∧ (egress [packet false] 48).rings = [] ∧
    (egress [packet false] 47).cyc.toNat < (packet false).readAt + Config.commitDelay ∧ (packet true).source = .foreign 0x1000 2 ∧
    ((packet true).regions.all fun r => !(egress [packet true] 0).scrubbing.contains r) = true := by decide +kernel
def counting (strike : Bool) (n : Nat) : State := { State.reset with deferred := [⟨48, 0, 0, [3], strike⟩], cyc := BitVec.ofNat 64 n }
theorem wit_PackageEvents_count : (counting false 48).cyc.toNat ≤ 48 ∧ 48 < (counting false 49).cyc.toNat ∧ dieOf 0 = 0 ∧ (counting true 49).deferred.length = 1 := by
  decide +kernel
theorem wit_PackageEvents_epoch : (State.reset.lifeOf 0).ends ≤ ({ State.reset with cyc := 2 ^ 42 } : State).cyc.toNat ∧
    State.reset.cyc.toNat < (State.reset.lifeOf 0).ends := by decide +kernel
/-- Two tier devices of 1 GiB behind port 1. -/
def tiered : State := { State.reset with cyc := 512, tiers := [[], [0x40000000, 0x40000000]] }
theorem wit_PackageEvents_tier : tiered.tickEnd ≤ tiered.cyc.toNat ∧ State.reset.cyc.toNat < State.reset.tickEnd ∧ State.reset.domain = false ∧ State.reset.tasks = [] ∧ (tiered.tiers.getD 1 []).getD 1 0 ≠ 0 ∧
    (1, 1) ∉ tiered.failedDevices ∧ tiered.ops = [] ∧ Store.sortedFrom 0 (Store.get [] tiered.counters 0) = true ∧ (Store.get Ring.none tiered.rings 0).waiting = [] := by
  decide +kernel
/-- Table 17.3: of word 3 of an entry, bits 192, 194, 195 and 196 are writable. -/
theorem wit_PackageEvents_segment : (63 < 64 ∧ 3 < 4 ∧ RegName.supSegment 63 3 = .supSegment 63 3) ∧
    registerOpens (.supSegment 63 3) { State.reset with stage := .ready } = true ∧
    Store.get 0 (after (.registerWrite (.supSegment 63 3) allOnes64) { State.reset with stage := .ready }).supSegs 63 = 0x1D#256 <<< 192 := by decide +kernel

/-! ### Steps, words and invariants -/

/-- Core 0 at a bundle of one word, whose issue is due. -/
def stepping : State := { (runs [(0, bundle1 0 1 0x04108300)] [] [] id) with agenda := [.bundleIssue 0] }
/-- The premises of the statement on `stepping`. -/
def stepsPlainly : Bool :=
  match ready 0 { stepping with agenda := [] } with
  | .go b t =>
    let c := t.core 0
    let u := { (t.onCore 0 fun c => { c.land c.work.bno with work := { (c.land c.work.bno).work with comps := hitsAt t 0 c.work.pc b } }) with
      cur := 0 }.onCore 0 fun c => { c with lx := (headerOf b).lx, lit := bundleWord b 7, dropped := [] }
    let r := slotRun (.add ⟨1, 2, 3, 0, 0⟩) u
    decide (c.work.recov = none) && !(headerOf b).rz && !(headerOf b).reserved && (slotWords b).contains (1, 0x04108300#32) &&
      ((slotWords b).all fun q => decide (q.1 = 1) || decide (q.2 = 0)) && !(u.core 0).hzd && decide ((r.core 0).owedEntries ≤ 64) &&
      !overLimits (r.core 0) && c.atMark
  | _ => false
theorem wit_StepRunsTheDecodedWord : decodeSlot 1 0x04108300#32 = .ok (.add ⟨1, 2, 3, 0, 0⟩) ∧ stepsPlainly = true := by decide +kernel
theorem wit_EncodeDecode : spellingOk (.add ⟨63, 62, 3, 15, 9⟩) = true ∧ (encode (.add ⟨63, 62, 3, 15, 9⟩)).isSome = true ∧ spellingOk (.li ⟨1, 62, 0, 0, 0⟩) = true ∧
    spellingOk (.mov ⟨1, 62, 0, 0, 0⟩) = false := by decide +kernel
theorem wit_DecodeIsExact : decodeSlot 1 0x04108300#32 = .ok (.add ⟨1, 2, 3, 0, 0⟩) ∧ (0x30 : Nat) ≤ (opOf 0xC0000000#32).toNat ∧ (opOf 0x04108300#32).toNat < 0x30 := by
  decide +kernel
theorem wit_MemoryKeepsItsForm : Memory.wf stepping.mem = true ∧ ((match step stepping with
    | .next t => Memory.wf t.mem
    | _ => false) = true) := by decide +kernel
theorem wit_ResiduesAreExact : ([-5, 16384, -16384] : List Int).length ≤ 4032 ∧ ∀ p ∈ ([-5, 16384, -16384] : List Int), p.natAbs ≤ 16384 := by decide
theorem wit_SlotWordFrame : slotFields (.zmov ⟨1, 2, 3, 0, 9⟩) = some ⟨1, 2, 3, 0, 9⟩ ∧ calm State.reset = true ∧ mayLeave (.zmov ⟨1, 2, 3, 0, 9⟩) = true ∧
    ready1 (.sret ⟨0, 0, 0, 0, 0⟩) ⟨0, 0, 0, 0, 0⟩ privilegedState = true := by decide +kernel
theorem wit_WriteLands : Store.sortedFrom 0 Regs.reset.sc = true ∧ ({ Regs.reset with pend := [⟨0, 1, 0, 1, .scalar 50, 3, allOnes64, true, none, 1, 0, none, 0⟩] } : Regs).pend.length = 1 := by
  decide +kernel

/-! ### Traps and returns -/

/-- Core 0 at a bundle of its image with a save area. -/
def trapping : State :=
  { (savable fun c => { c with run := .running, com := { c.com with pc := 96, sc := [(1, 7)], frames := [] } }) with images := [(0, imageOf8 [] [] [])] }
theorem wit_TrapEntered : (trapping.core 0).sup = false ∧ (trapping.core 0).svec ≠ 0 ∧ (State.reset.core 0).svec = 0 ∧ saveLoc State.reset (State.reset.core 0) = none ∧
    (let s := savable fun c => { c with sup := true }; Memory.wf s.mem = true ∧ (s.core 0).sup = true ∧ saveLoc s (s.core 0) = some 0x200000000) := by decide +kernel
theorem wit_SavedContextRestored : let c := trapping.core 0
    Memory.wf trapping.mem = true ∧ c.sup = false ∧ c.svec ≠ 0 ∧ saveLoc trapping c = some 0x200000000 ∧ c.com.frames.length ≤ 4 ∧ c.com.pend.length ≤ 128 ∧
    c.grafts.length ≤ 4 ∧ c.com.pc.toNat % 32 = 0 ∧ c.heldStores = [] ∧ (trapping.imageOf c).holds c.com.pc c.com.space = true := by decide +kernel
/-- Core 0 in its handler. -/
def handling : State := takeTrap trapping 0 false ⟨6, 0, 96, false, 1⟩
theorem wit_HandlerReturns_area : saveLoc handling (handling.core 0) = some 0x200000000 ∧ areaNat handling 0x200000000 0 8 / 2 % 16 = 0 ∧
    saveOk handling 0x200000000 = true ∧ (handling.imageOf (handling.core 0)).holds 96 false = true ∧
    areaNat (handling.writeNat 0x200000000 8 98) 0x200000000 0 8 / 2 % 16 ≠ 0 ∧ saveOk (handling.writeNat 0x200000008 1 5) 0x200000000 = false ∧
    areaLost handling 0x200000000 = false ∧ areaLost { handling with poisoned := [0x200000000] } 0x200000000 = true := by decide +kernel
theorem wit_HandlerReturns_busy : let s := st fun c => { c with sup := true, seg := { c.seg with effects := [.kick 1] } }
    ready1 (.sret ⟨0, 0, 0, 0, 0⟩) ⟨0, 0, 0, 0, 0⟩ s = true ∧ (s.core 0).seg.effects ≠ [] := by decide +kernel
theorem wit_CallEnters_graft : issues (.rcall ⟨1, 0, 0, 0, 0⟩) ⟨1, 0, 0, 0, 0⟩ withGraft = true ∧ (withGraft.core 0).work.frames.length ≠ 4 ∧
    ((withGraft.imageOf (withGraft.core 0)).routines.all fun r => tilesAllowed (withGraft.imageOf (withGraft.core 0)) r (withGraft.core 0).work.queue &&
      (graftTaken withGraft 0 0 r (withGraft.core 0).work.queue).isSome) = true := by decide +kernel
/-- What holds an RCALL on flag 1: the flag is bound, four grafted calls are out, the unit is busy, a write is pending, an OPAR repeats. -/
theorem wit_CallEnters_holds : let g := withGraft.core 0; let n := withRoutine.core 0; let out := call1 g false true
    flagBound { withGraft with ops := [(2, { engineOp .cpy 0 0 .running with cmd.flag := some (0, 1) })] } 0 1 = true ∧ flagBound withGraft 0 1 = false ∧
    4 ≤ graftsOut { g with grafts := [(2, out), (3, out), (4, out), (5, out)] } ∧
    ((graftEntry withGraft g 0).map fun e => unitBusy withGraft { g with grafts := [(2, out)] } e.unit) = some true ∧
    ((graftEntry withGraft g 0).map fun e => unitBusy withGraft g e.unit) = some false ∧
    0 < Core.ahead { n with work := { n.work with pend := [⟨0, 1, 0, 1, .scalar 50, 3, allOnes64, true, none, 1, 0, none, 0⟩] } } 0 ∧
    n.ahead 0 = 0 ∧ n.work.opar = none ∧ Core.ahead { n with work := { n.work with opar := some ⟨1, 0xBFF80, 2, true, 8, 7, 41, 3⟩ } } 0 = 0 := by decide +kernel
/-- A routine whose body names tile 3, which no parameter gives. -/
def tileRoutine : State := { State.reset with images := [(0, ⟨0, 0, [], 1, 0, 32, [(4, bundle1 0 4 0x0C300000)], [⟨⟨[], 0, false, 2, 1, 0, [], []⟩, 0, 4⟩], 0, 2, false⟩)] }
theorem wit_CallEnters_traps : issues (.rcall ⟨1, 0, 0, 0, 0⟩) ⟨1, 0, 0, 0, 0⟩ tileRoutine = true ∧
    ((tileRoutine.imageOf (tileRoutine.core 0)).routines.all fun r => !tilesAllowed (tileRoutine.imageOf (tileRoutine.core 0)) r (tileRoutine.core 0).work.queue) = true ∧
    (let s := st fun c => { c with work := { c.work with frames := List.replicate 4 ((atBodyEnd.core 0).work.frames.headD ⟨[], 0, 0, [], [], [], 0, 0, 0, false, 0, 0, false, 0, [], 0, false, [], [], 0, none, none, none⟩) } }
    issues (.rcall ⟨1, 0, 0, 0, 0⟩) ⟨1, 0, 0, 0, 0⟩ s = true ∧ (s.core 0).work.frames.length = 4) := by decide +kernel

end Sys2Proof.Tests
end

section
/-! SUPPORT. A slot word that issues undisturbed, once for all rows: what it reads beside its WARN bits, the write that it leaves, the trap that it takes, and a word whose guard is false (R70, R79, R82, R152). -/

namespace Sys2Proof.Safety

open Sys2Proof.Machine

/-! ### What a word reads once its WARN bits are raised -/

@[simp] theorem ctxOf_p (i : Instr) (f : Fields) (s : State) : (ctxOf i f s).p = s.cur := rfl
@[simp] theorem ctxOf_slot (i : Instr) (f : Fields) (s : State) : (ctxOf i f s).slot = slotIndex i := rfl
@[simp] theorem ctxOf_f (i : Instr) (f : Fields) (s : State) : (ctxOf i f s).f = read i f := rfl

@[simp] theorem warned_cur (i : Instr) (f : Fields) (s : State) : (warned i f s).cur = s.cur :=
  cur_pushWarn ..

/-- The WARN bits of a word change its core in nothing but the pending writes (R82). -/
theorem warned_core (i : Instr) (f : Fields) (s : State) :
    ∃ ws, (warned i f s).core s.cur = { s.core s.cur with work := { (s.core s.cur).work with pend := ws } } := by
  simp only [warned, pushWarn]
  split
  · exact ⟨_, rfl⟩
  · exact ⟨_, pushWrite_core (ctxOf i f s) ..⟩

@[simp] theorem srcS_warned (i : Instr) (f : Fields) (s : State) (code : BitVec 6) :
    ((ctxOf i f s).core (warned i f s)).srcS code = valueS s code := by
  obtain ⟨ws, h⟩ := warned_core i f s
  simp only [Ctx.core, ctxOf_p, h]
  rfl

@[simp] theorem srcPoison_warned (i : Instr) (f : Fields) (s : State) (code : BitVec 6) :
    ((ctxOf i f s).core (warned i f s)).srcPoison code = poisonS s code := by
  obtain ⟨ws, h⟩ := warned_core i f s
  simp only [Ctx.core, ctxOf_p, h]
  rfl

@[simp] theorem readP_warned (i : Instr) (f : Fields) (s : State) (n : Nat) :
    ((ctxOf i f s).core (warned i f s)).work.readP n = valueP s n := by
  obtain ⟨ws, h⟩ := warned_core i f s
  simp only [Ctx.core, ctxOf_p, h]
  rfl

@[simp] theorem litS_warned (i : Instr) (f : Fields) (s : State) :
    ((ctxOf i f s).core (warned i f s)).litS = (s.core s.cur).litS := by
  obtain ⟨ws, h⟩ := warned_core i f s
  simp only [Ctx.core, ctxOf_p, h]
  rfl

/-- The WARN bits of a word that issues interrupt nothing. -/
theorem quiet_warned {i : Instr} {f : Fields} {s : State} (h : calm s = true) :
    Quiet s.cur (s.core s.cur).work.pc (s.core s.cur).work.space (warned i f s) :=
  quiet_pushWarn (x := ctxOf i f s) _ (quiet_of_calm h)

theorem calm_of_issues {i : Instr} {f : Fields} {s : State} (h : issues i f s = true) : calm s = true := by
  simp only [issues, Bool.and_eq_true] at h
  exact h.2

/-! ### Counters of stochastic conversions -/

/-- A row without a rounding mode uses up no counter (R55). -/
theorem counted_of_modeField_none {i : Instr} {f : Fields} (h : modeField i (read i f) = none) (s : State) :
    counted i f s = s := by
  have hm : effMode i (cleanFields i f) = 0 := by
    simp only [effMode, show modeField i (cleanFields i f) = none from h]
  simp [counted, isSR, hm]

@[simp] theorem counted_core_sync (i : Instr) (f : Fields) (s : State) (p : Nat) :
    ((counted i f s).core p).sync = (s.core p).sync := by
  unfold counted
  split
  · by_cases hp : p = s.cur
    · rw [hp, State.core_onCore_same]
    · rw [State.core_onCore_other _ hp]
  · rfl

/-! ### A word that leaves a write -/

section Writes

variable {i : Instr} {f : Fields} {s : State} {body : Ctx → State → State} {lat : Nat}

/-- A word of a row without a rounding mode whose body leaves the core quiet has its body's effect beside its WARN bits. -/
theorem slotExec_eq_of_quiet {t : State} (h : issues i f s = true) (hm : modeField i (read i f) = none)
    (hb : body (ctxOf i f s) (warned i f s) = t) (hc : t.cur = s.cur)
    (hq : Quiet s.cur (s.core s.cur).work.pc (s.core s.cur).work.space t) : slotExec i f body s = t := by
  subst hb
  rw [slotExec_issues body h hc hq, counted_of_modeField_none hm]

/-- A body that ends in one pending write leaves that write (R93). -/
theorem slotExec_eq_pushWrite {dest : Dest} {value : Vec} {g : Pending → Pending} (h : issues i f s = true)
    (hm : modeField i (read i f) = none)
    (hb : body (ctxOf i f s) (warned i f s) = pushWrite (ctxOf i f s) lat dest value g (warned i f s)) :
    slotExec i f body s = pushWrite (ctxOf i f s) lat dest value g (warned i f s) :=
  slotExec_eq_of_quiet h hm hb (by simp) (quiet_pushWrite (x := ctxOf i f s) _ _ _ _ (quiet_warned (calm_of_issues h)))

/-- The same of a result for an S code. -/
theorem slotExec_eq_putS {code : BitVec 6} {v : Word} {poison : Bool} {st : BitVec 6} (h : issues i f s = true)
    (hm : modeField i (read i f) = none)
    (hb : body (ctxOf i f s) (warned i f s) = putS (ctxOf i f s) lat code v poison st (warned i f s)) :
    slotExec i f body s = putS (ctxOf i f s) lat code v poison st (warned i f s) :=
  slotExec_eq_of_quiet h hm hb (by simp) (quiet_putS (x := ctxOf i f s) _ _ _ _ _ (quiet_warned (calm_of_issues h)))

/-- The same of a result for a predicate. -/
theorem slotExec_eq_putP {n : Nat} {v mask : Word} (h : issues i f s = true) (hm : modeField i (read i f) = none)
    (hb : body (ctxOf i f s) (warned i f s) = putP (ctxOf i f s) lat n v mask (warned i f s)) :
    slotExec i f body s = putP (ctxOf i f s) lat n v mask (warned i f s) :=
  slotExec_eq_of_quiet h hm hb (by simp) (quiet_putP (x := ctxOf i f s) _ _ _ _ (quiet_warned (calm_of_issues h)))

end Writes

/-- A poisoned result is a poisoned 0, whatever value was computed (R152). -/
theorem putS_poisoned (x : Ctx) (lat : Nat) (code : BitVec 6) (v : Word) (st : BitVec 6) (s : State) :
    putS x lat code v true st s = putS x lat code 0 true st s := rfl

/-! ### A word that traps -/

/-- What follows a trap that the slots raised on a core that held none (R79, R259). -/
theorem settle_of_sync {p : Nat} {before after : State} {t : TrapRec} (hb : (before.core p).sync = none)
    (ha : (after.core p).sync = some t) :
    settle p before after = if (before.core p).trapsNow then trapNow before p false t
      else before.onCore p fun c => { c with sync := some t } := by
  simp [settle, settleWith, hb, ha]

/-- A word whose body raises a trap leaves nothing but that trap (R79). -/
theorem slotExec_eq_trapped {i : Instr} {f : Fields} {s : State} {body : Ctx → State → State} {cause sub : Nat}
    {info : Word} (h : issues i f s = true)
    (hb : body (ctxOf i f s) (warned i f s) = raiseAt s.cur cause sub info (warned i f s)) :
    slotExec i f body s = trapped s cause sub info := by
  have hbefore : (s.core s.cur).sync = none := (quiet_of_calm (calm_of_issues h)).1
  have hwarned : ((warned i f s).core s.cur).sync = none := (quiet_warned (calm_of_issues h)).1
  have hafter : ((counted i f (raiseAt s.cur cause sub info (warned i f s))).core s.cur).sync =
      some ⟨cause, sub, (s.core s.cur).work.pc, (s.core s.cur).work.space, info⟩ := by
    obtain ⟨ws, hw⟩ := warned_core i f s
    rw [counted_core_sync, raiseAt_sync _ _ _ hwarned, hw]
  unfold slotExec
  rw [runSlot_issues body h (by rw [hb]; exact warned_cur ..), hb, settle_of_sync hbefore hafter]
  rfl

/-- A word with a poisoned control or address operand traps POISON_USE with its slot in TINFO (R152). -/
theorem slotExec_eq_poisonUse {i : Instr} {f : Fields} {s : State} {body : Ctx → State → State} {k : State → State}
    (h : issues i f s = true) (hb : body (ctxOf i f s) (warned i f s) = unlessPoisoned (ctxOf i f s) true k (warned i f s)) :
    slotExec i f body s = trapped s 6 0 (slotInfo (slotIndex i) 0) :=
  slotExec_eq_trapped h hb

/-! ### A word whose guard is false -/

/-- A word outside the V slots whose guard is false has no effect but its WARN bits, and a conversion in SR mode uses up its counters (R70, R82, R95, R55). -/
theorem slotExec_unguarded {i : Instr} {f : Fields} {s : State} (body : Ctx → State → State) (ho : operandsOk i = true)
    (hp : privileged i = false ∨ (s.core s.cur).sup = true) (hc : calm s = true) (hl : laneGated i (read i f) = false)
    (hg : (s.core s.cur).work.guard f.g = false) : slotExec i f body s = counted i f (warned i f s) := by
  have hpriv : (privileged i && !(s.core s.cur).sup) = false := by rcases hp with h | h <;> simp [h]
  have hrun : runSlot i f body s = counted i f (warned i f s) := by
    simp only [runSlot, ho, ctxOf_p, hpriv, ctxOf_f, hl, hg, Bool.not_true, Bool.false_eq_true, Bool.or_self, if_false,
      counted, warned_cur]
    rfl
  unfold slotExec
  rw [hrun]
  apply settle_quiet
  have hq := quiet_warned (i := i) (f := f) hc
  unfold counted
  split
  · simpa [Quiet, Core.onlySret] using hq
  · exact hq

end Sys2Proof.Safety
end

section
/-! SUPPORT. The integer rows against Table 7.1: each value function of the model gives the row of the table, over exact integers (R155, R156). -/

namespace Sys2Proof.Safety

open Sys2Proof.Machine

/-! ### Saturation and wrapping (R155) -/

/-- Clamping is the table's saturation, whatever the bounds that contain a value. -/
theorem clampInt_eq_saturate {lo hi : Int} (z : Int) (h : lo ≤ hi) : clampInt lo hi z = saturate lo hi z := by
  unfold clampInt saturate
  by_cases hlo : z < lo
  · rw [if_pos hlo, if_neg (by omega), show max lo (min hi z) = lo by omega]
  · by_cases hhi : hi < z
    · rw [if_neg hlo, if_pos hhi, if_neg (by omega), show max lo (min hi z) = hi by omega]
    · rw [if_neg hlo, if_neg hhi, if_pos (by omega)]

/-- The bounds of the signed saturating forms (R44). -/
theorem intRange_signed : intRange true 64 = (-2 ^ 63, 2 ^ 63 - 1) := rfl

/-- The bounds of the unsigned saturating forms (R44). -/
theorem intRange_unsigned : intRange false 64 = (0, 2 ^ 64 - 1) := rfl

/-- The low 64 bits of an exact sum are the wrapped sum, and so for a difference and a product. -/
theorem ofInt_toInt_add (a b : Word) : BitVec.ofInt 64 (a.toInt + b.toInt) = a + b := by
  simp [BitVec.ofInt_add]

theorem ofInt_toInt_sub (a b : Word) : BitVec.ofInt 64 (a.toInt - b.toInt) = a - b := by
  simp [Int.sub_eq_add_neg, BitVec.ofInt_add, BitVec.sub_eq_add_neg, BitVec.ofInt_neg]

theorem ofInt_toInt_mul (a b : Word) : BitVec.ofInt 64 (a.toInt * b.toInt) = a * b := by
  simp [BitVec.ofInt_mul]

/-! ### Counting bits (R155, BITC) -/

theorem countP_range_succ (p : Nat → Bool) (n : Nat) :
    (List.range (n + 1)).countP p = (p 0).toNat + (List.range n).countP (fun k => p (k + 1)) := by
  rw [List.range_succ_eq_map, List.countP_cons, List.countP_map, Nat.add_comm]
  cases p 0 <;> rfl

/-- The model's population count counts the set bits. -/
theorem popCount_eq_countP (w x : Nat) : popCount w x = (List.range w).countP fun k => x.testBit k := by
  induction w generalizing x with
  | zero => rfl
  | succ w ih =>
    rw [popCount, ih, countP_range_succ]
    simp only [Nat.testBit_succ, Nat.testBit_zero]
    rcases Nat.mod_two_eq_zero_or_one x with h | h <;> simp [h]

/-- The model's trailing zeros are the clear bits below the lowest set one. -/
theorem trailZeros_eq_takeWhile (w x : Nat) :
    trailZeros w x = ((List.range w).takeWhile fun k => !x.testBit k).length := by
  induction w generalizing x with
  | zero => rfl
  | succ w ih =>
    rw [trailZeros, List.range_succ_eq_map, List.takeWhile_cons, Nat.testBit_zero]
    by_cases h : x % 2 = 1
    · simp [h]
    · simp [h, ih, List.takeWhile_map, Function.comp_def, Nat.testBit_succ, Nat.add_comm]

/-- The model's leading zeros are the clear bits above the highest set one. -/
theorem leadZeros_eq_takeWhile (w x : Nat) :
    leadZeros w x = ((List.range w).takeWhile fun k => !x.testBit (w - 1 - k)).length := by
  induction w with
  | zero => rfl
  | succ w ih =>
    rw [leadZeros, List.range_succ_eq_map, List.takeWhile_cons]
    by_cases h : x.testBit w
    · simp [h]
    · have hk : ∀ k, w - 1 - k = w - (k + 1) := fun k => by omega
      simp [h, ih, List.takeWhile_map, Function.comp_def, hk, Nat.add_comm]

/-! ### Shifts and modifiers (R155) -/

/-- A shift to the left is a product with a power of two. -/
theorem shiftLeft_eq_mul_ofNat (v : Word) (n : Nat) : v <<< n = v * BitVec.ofNat 64 (2 ^ n) := by
  apply BitVec.eq_of_toNat_eq
  simp [Nat.shiftLeft_eq]

/-- An arithmetic shift is a division that rounds down. -/
theorem sshiftRight_eq_ofInt (a : Word) (n : Nat) : a.sshiftRight n = BitVec.ofInt 64 (a.toInt / (2 ^ n : Int)) := by
  rw [BitVec.sshiftRight_eq, Int.shiftRight_eq_div_pow]
  simp

/-- A logical shift is a division of the unsigned value. -/
theorem ushiftRight_eq_ofNat (a : Word) (n : Nat) : a >>> n = BitVec.ofNat 64 (a.toNat / 2 ^ n) := by
  apply BitVec.eq_of_toNat_eq
  rw [BitVec.toNat_ushiftRight, Nat.shiftRight_eq_div_pow, BitVec.toNat_ofNat, Nat.mod_eq_of_lt]
  exact Nat.lt_of_le_of_lt (Nat.div_le_self ..) a.isLt

/-- The modifier F = 1, by its number. -/
theorem eq_one_iff_toNat (f : BitVec 4) : f = 1 ↔ f.toNat = 1 := by
  rw [← BitVec.toNat_inj]
  rfl

/-! ### The rows of Table 7.1 -/

section Rows

variable (g : Fields) (f : BitVec 4) (a b : Word)

theorem tableInt_add : tableInt (.add g) f a b = some (1, addVal f a b) := by
  unfold tableInt addVal
  generalize f.toNat = n
  match n with
  | 1 | 2 => exact congrArg (fun r => some (1, r)) (clampInt_eq_saturate _ (by decide)).symm
  | 0 | _ + 3 => exact congrArg (fun v => some (1, v, 0)) (ofInt_toInt_add a b)

theorem tableInt_sub : tableInt (.sub g) f a b = some (1, subVal f a b) := by
  unfold tableInt subVal
  generalize f.toNat = n
  match n with
  | 1 | 2 => exact congrArg (fun r => some (1, r)) (clampInt_eq_saturate _ (by decide)).symm
  | 0 | _ + 3 => exact congrArg (fun v => some (1, v, 0)) (ofInt_toInt_sub a b)

theorem tableInt_shl : tableInt (.shl g) f a b = some (1, shlVal a b) := by
  have h : a <<< shiftCount b = BitVec.ofNat 64 (a.toNat * 2 ^ (b.toNat % 64)) := by
    apply BitVec.eq_of_toNat_eq
    simp [shiftCount, Nat.shiftLeft_eq]
  simp only [tableInt, shlVal, h]

theorem tableInt_shr : tableInt (.shr g) f a b = some (1, shrVal f a b) := by
  simp only [tableInt, shrVal, shiftCount, sshiftRight_eq_ofInt, ushiftRight_eq_ofNat, eq_one_iff_toNat]
  split <;> rfl

theorem tableInt_mul : tableInt (.mul g) f a b = some (3, mulVal f a b) := by
  simp only [tableInt, mulVal, ofInt_toInt_mul]
  rfl

theorem tableInt_min : tableInt (.min g) f a b = some (1, minVal f a b) := by
  simp only [tableInt, minVal, eq_one_iff_toNat, ← Nat.not_lt, ← Int.not_lt, ite_not]

theorem tableInt_max : tableInt (.max g) f a b = some (1, maxVal f a b) := by
  have hu : (if a.toNat ≤ b.toNat then b else a) = if a.toNat < b.toNat then b else a := by
    rcases Nat.lt_trichotomy a.toNat b.toNat with h | h | h
    · rw [if_pos h.le, if_pos h]
    · rw [BitVec.eq_of_toNat_eq h, ite_self, ite_self]
    · rw [if_neg (by omega), if_neg (by omega)]
  have hs : (if a.toInt ≤ b.toInt then b else a) = if a.toInt < b.toInt then b else a := by
    rcases Int.lt_trichotomy a.toInt b.toInt with h | h | h
    · rw [if_pos h.le, if_pos h]
    · rw [BitVec.eq_of_toInt_eq h, ite_self, ite_self]
    · rw [if_neg (by omega), if_neg (by omega)]
  simp only [tableInt, maxVal, eq_one_iff_toNat, hu, hs]

theorem tableInt_bitc : tableInt (.bitc g) f a b = some (1, bitcVal f a) := by
  unfold tableInt bitcVal
  generalize f.toNat = n
  match n with
  | 1 => exact congrArg (fun c => some (1, BitVec.ofNat 64 c, 0)) (leadZeros_eq_takeWhile 64 a.toNat).symm
  | 2 => exact congrArg (fun c => some (1, BitVec.ofNat 64 c, 0)) (trailZeros_eq_takeWhile 64 a.toNat).symm
  | 0 | _ + 3 => exact congrArg (fun c => some (1, BitVec.ofNat 64 c, 0)) (popCount_eq_countP 64 a.toNat).symm

end Rows

/-! ### Division (R156) -/

/-- What the modifier bits of DIV say, for the codes that the row takes. -/
theorem divModifiers {f : BitVec 4} (hf : f.toNat < 4) :
    f.getLsbD 0 = decide (f.toNat % 2 = 1) ∧ f.getLsbD 1 = decide (2 ≤ f.toNat) := by
  revert f
  decide

theorem tableInt_div (g : Fields) {f : BitVec 4} (a b : Word) (hf : f.toNat < 4) :
    tableInt (.div g) f a b = some (20, divVal f a b) := by
  obtain ⟨hsigned, hrem⟩ := divModifiers hf
  simp only [tableInt, divVal, hsigned, hrem]
  by_cases hb : b = 0
  · simp only [hb, if_true, decide_eq_true_eq]
    rfl
  · have hn : f.toNat = 0 ∨ f.toNat = 1 ∨ f.toNat = 2 ∨ f.toNat = 3 := by omega
    rcases hn with hn | hn | hn | hn <;> simp [hn]

end Sys2Proof.Safety
end

section
/-! SUPPORT. The S-slot rows of the integer unit: results, division case by case, compares, moves and the software trap (R155 to R158, R167, R173). -/

namespace Sys2Proof.Safety

open Sys2Proof.Machine

/-! ### The fields that a row reads -/

/-- A reserved value of F is read as 0, and so every value read is below the row's bound (R82). -/
theorem clean_below_lt {n : Nat} (hn : 0 < n) (f : BitVec 4) : ((FSpec.below n).clean f).toNat < n := by
  simp only [FSpec.clean]
  split
  · assumption
  · exact hn

/-! ### Rows that compute a value from A and B -/

/-- What the shared body of the integer rows leaves beside the WARN bits: a poisoned source gives a poisoned 0 and no STAT bit (R152). -/
theorem intBody_warned (i : Instr) (f : Fields) (s : State) (lat : Nat) (val : Word → Word → IntResult) :
    intBody lat val (ctxOf i f s) (warned i f s) =
      if poisonS s (read i f).a || poisonS s (read i f).b
      then putS (ctxOf i f s) lat (read i f).d 0 true 0 (warned i f s)
      else putS (ctxOf i f s) lat (read i f).d (val (valueS s (read i f).a) (valueS s (read i f).b)).1 false
        (val (valueS s (read i f).a) (valueS s (read i f).b)).2 (warned i f s) := by
  simp only [intBody, srcS_warned, srcPoison_warned, ctxOf_f]
  cases poisonS s (read i f).a || poisonS s (read i f).b
  · rfl
  · exact putS_poisoned ..

/-- A row that runs the shared body of the integer rows with the value function `val`. -/
theorem slotExec_intBody {i : Instr} {f : Fields} {s : State} {body : Ctx → State → State} {lat : Nat}
    {val : Word → Word → IntResult} (h : issues i f s = true) (hm : modeField i (read i f) = none)
    (hb : body (ctxOf i f s) = intBody lat val (ctxOf i f s)) :
    slotExec i f body s =
      if poisonS s (read i f).a || poisonS s (read i f).b
      then putS (ctxOf i f s) lat (read i f).d 0 true 0 (warned i f s)
      else putS (ctxOf i f s) lat (read i f).d (val (valueS s (read i f).a) (valueS s (read i f).b)).1 false
        (val (valueS s (read i f).a) (valueS s (read i f).b)).2 (warned i f s) := by
  have hw := intBody_warned i f s lat val
  rw [← hb] at hw
  split_ifs at hw ⊢
  · exact slotExec_eq_putS h hm hw
  · exact slotExec_eq_putS h hm hw

/-- A row whose value function gives its row of Table 7.1 writes the table's result. -/
theorem slotExec_tableInt {i : Instr} {f : Fields} {s : State} {body : Ctx → State → State} {lat lat' : Nat}
    {val : Word → Word → IntResult} {v : Word} {st : BitVec 6} (h : issues i f s = true)
    (ht : tableInt i (read i f).f (valueS s (read i f).a) (valueS s (read i f).b) = some (lat', v, st))
    (hval : tableInt i (read i f).f (valueS s (read i f).a) (valueS s (read i f).b) =
      some (lat, val (valueS s (read i f).a) (valueS s (read i f).b)))
    (hm : modeField i (read i f) = none) (hb : body (ctxOf i f s) = intBody lat val (ctxOf i f s)) :
    slotExec i f body s =
      if poisonS s (read i f).a || poisonS s (read i f).b
      then putS (ctxOf i f s) lat' (read i f).d 0 true 0 (warned i f s)
      else putS (ctxOf i f s) lat' (read i f).d v false st (warned i f s) := by
  obtain ⟨rfl, hv⟩ := Prod.mk.inj (Option.some.inj (hval.symm.trans ht))
  rw [slotExec_intBody h hm hb, hv]

/-! ### Division (R156) -/

/-- DIV writes what its value function gives where no source is poisoned. -/
theorem exec_div {f : Fields} {s : State} {v : Word} {st : BitVec 6} (h : issues (.div f) f s = true)
    (ha : poisonS s f.a = false) (hb : poisonS s f.b = false)
    (hv : divVal (read (.div f) f).f (valueS s f.a) (valueS s f.b) = (v, st)) :
    exec (.div f) s = .next (putS (ctxOf (.div f) f s) 20 f.d v false st (warned (.div f) f s)) := by
  have hrun := slotExec_intBody (body := divBody) (lat := 20) h rfl rfl
  rw [show (read (.div f) f).a = f.a from rfl, show (read (.div f) f).b = f.b from rfl, ha, hb, Bool.or_self,
    if_neg Bool.false_ne_true, show (divVal (ctxOf (.div f) f s).f.f (valueS s f.a) (valueS s f.b)) = (v, st) from hv] at hrun
  exact congrArg Host.Outcome.next hrun

section Division

variable {f : BitVec 4} {a b : Word}

theorem divVal_zero_quotient (hf : f.toNat < 4) (hr : ¬ 2 ≤ f.toNat) : divVal f a 0 = (BitVec.allOnes 64, statDZ) := by
  simp only [divVal, (divModifiers hf).2, if_true, decide_eq_true_eq, if_neg hr]

theorem divVal_zero_remainder (hf : f.toNat < 4) (hr : 2 ≤ f.toNat) : divVal f a 0 = (a, statDZ) := by
  simp only [divVal, (divModifiers hf).2, if_true, decide_eq_true_eq, if_pos hr]

theorem divVal_unsigned (hf : f.toNat < 4) (hs : ¬ f.toNat % 2 = 1) (hb : b ≠ 0) :
    divVal f a b = (BitVec.ofNat 64 (if 2 ≤ f.toNat then a.toNat % b.toNat else a.toNat / b.toNat), 0) := by
  simp only [divVal, (divModifiers hf).1, (divModifiers hf).2, if_neg hb, decide_eq_true_eq, if_neg hs]

theorem divVal_signed (hf : f.toNat < 4) (hs : f.toNat % 2 = 1) (hb : b ≠ 0) :
    divVal f a b = (BitVec.ofInt 64 (if 2 ≤ f.toNat then Int.tmod a.toInt b.toInt else Int.tdiv a.toInt b.toInt), 0) := by
  simp only [divVal, (divModifiers hf).1, (divModifiers hf).2, if_neg hb, decide_eq_true_eq, if_pos hs]

/-- The most negative number divided by −1 overflows to itself, with remainder 0. -/
theorem divVal_least_quotient (hf : f.toNat < 4) (hs : f.toNat % 2 = 1) (hr : ¬ 2 ≤ f.toNat) :
    divVal f (BitVec.ofInt 64 (-2 ^ 63)) (BitVec.ofInt 64 (-1)) = (BitVec.ofInt 64 (-2 ^ 63), 0) := by
  rw [divVal_signed hf hs (by decide), if_neg hr]
  rfl

theorem divVal_least_remainder (hf : f.toNat < 4) (hs : f.toNat % 2 = 1) (hr : 2 ≤ f.toNat) :
    divVal f (BitVec.ofInt 64 (-2 ^ 63)) (BitVec.ofInt 64 (-1)) = (0, 0) := by
  rw [divVal_signed hf hs (by decide), if_pos hr]
  rfl

end Division

/-- A truncated remainder takes the sign of the dividend. -/
theorem tmod_mul_self_nonneg (x y : Int) : 0 ≤ Int.tmod x y * x := by
  rcases Int.le_total 0 x with hx | hx
  · exact Int.mul_nonneg (Int.tmod_nonneg _ hx) hx
  · have hneg : 0 ≤ Int.tmod (-x) y * -x := Int.mul_nonneg (Int.tmod_nonneg _ (by omega)) (by omega)
    rwa [Int.neg_tmod, Int.neg_mul_neg] at hneg

/-- A truncated remainder is smaller than the divisor. -/
theorem natAbs_tmod_lt (x : Int) {y : Int} (hy : y ≠ 0) : (Int.tmod x y).natAbs < y.natAbs := by
  rw [Int.natAbs_tmod]
  exact Nat.mod_lt _ (Int.natAbs_pos.mpr hy)

/-! ### Compares (R157, R173) -/

/-- A word that writes every bit of a predicate unless a source is poisoned: the trap, or the write. -/
theorem slotExec_unlessPoisoned_putP {i : Instr} {f : Fields} {s : State} {body : Ctx → State → State} {lat n : Nat}
    {p : Bool} {v : Word} (h : issues i f s = true) (hm : modeField i (read i f) = none)
    (hb : body (ctxOf i f s) (warned i f s) =
      unlessPoisoned (ctxOf i f s) p (putP (ctxOf i f s) lat n v allOnes64) (warned i f s)) :
    (p = true → slotExec i f body s = trapped s 6 0 (slotInfo (slotIndex i) 0)) ∧
    (p = false → slotExec i f body s = putP (ctxOf i f s) lat n v allOnes64 (warned i f s)) := by
  refine ⟨?_, ?_⟩ <;> rintro rfl
  · exact slotExec_eq_poisonUse h hb
  · exact slotExec_eq_putP h hm hb

/-- TINFO of a trap of the S slot (Table 15.7). -/
theorem slotInfo_scalar {i : Instr} (h : slotIndex i = 1) : slotInfo (slotIndex i) 0 = 1 := by
  rw [h]
  decide

/-- The model's outcome of CMP is the condition of Table 7.2. -/
theorem cmpVal_iff (f : BitVec 4) (a b : Word) : cmpVal f.toNat a b = true ↔ tableCond f a b := by
  unfold cmpVal tableCond
  generalize f.toNat = n
  match n with
  | 0 | 1 | 2 | 3 | 4 | 5 | 6 | 7 | 8 | 9 | _ + 10 => exact decide_eq_true_iff

theorem cmpBody_warned (f : Fields) (s : State) :
    let x := read (.cmp f) f
    cmpBody (ctxOf (.cmp f) f s) (warned (.cmp f) f s) =
      unlessPoisoned (ctxOf (.cmp f) f s) (poisonUse (.cmp f) f s)
        (putP (ctxOf (.cmp f) f s) 1 x.d.toNat (allBits (cmpVal x.f.toNat (valueS s x.a) (valueS s x.b))) allOnes64)
        (warned (.cmp f) f s) := by
  simp only [cmpBody, srcS_warned, srcPoison_warned, ctxOf_f]
  rfl

theorem selBody_warned (f : Fields) (s : State) :
    let c := if (valueP s f.f.toNat).getLsbD 0 then f.a else f.b
    selBody (ctxOf (.sel f) f s) (warned (.sel f) f s) =
      putS (ctxOf (.sel f) f s) 1 f.d (valueS s c) (poisonS s c) 0 (warned (.sel f) f s) := by
  simp only [selBody, srcS_warned, srcPoison_warned, readP_warned]
  rfl

/-- The low three bits of F are the condition of FCMP. -/
theorem toNat_and_seven (f : BitVec 4) : (f &&& 7).toNat = f.toNat % 8 := by
  revert f
  decide

/-- The model's outcome of FCMP is the condition of R173 in the format that F[3] names. -/
theorem fcmpVal_iff (f : BitVec 4) (a b : Word) :
    let m := scalarFmt (f.getLsbD 3)
    fcmpVal f a b = true ↔ scalarCond (f.toNat % 8) m (a.toNat % 2 ^ m.width) (b.toNat % 2 ^ m.width) := by
  unfold fcmpVal scalarCond
  rw [toNat_and_seven]
  generalize f.toNat % 8 = n
  match n with
  | 0 | 1 | 2 | 4 => exact decide_eq_true_iff
  | 3 | 5 => exact (Bool.or_eq_true _ _).to_iff.trans (or_congr decide_eq_true_iff decide_eq_true_iff)
  | 6 => exact Option.isNone_iff_eq_none
  | _ + 7 => exact Option.isSome_iff_ne_none

theorem fcmpBody_warned (f : Fields) (s : State) :
    let x := read (.fcmp f) f
    fcmpBody (ctxOf (.fcmp f) f s) (warned (.fcmp f) f s) =
      unlessPoisoned (ctxOf (.fcmp f) f s) (poisonUse (.fcmp f) f s)
        (putP (ctxOf (.fcmp f) f s) 4 x.d.toNat (allBits (fcmpVal x.f (valueS s x.a) (valueS s x.b))) allOnes64)
        (warned (.fcmp f) f s) := by
  simp only [fcmpBody, srcS_warned, srcPoison_warned, ctxOf_f]
  rfl

/-! ### Moves (R158) -/

/-- Reading the tag bits as 0 changes no other field (R82). -/
@[simp] theorem clearTag_d (f : Fields) : (clearTag f).d = f.d := by
  unfold clearTag
  split <;> rfl

@[simp] theorem clearTag_a (f : Fields) : (clearTag f).a = f.a := by
  unfold clearTag
  split <;> rfl

@[simp] theorem clearTag_b (f : Fields) : (clearTag f).b = f.b := by
  unfold clearTag
  split <;> rfl

/-- The scale of AADD is F[3:2], whatever the tag bits. -/
theorem clearTag_scale (f : Fields) : bitsOf (clearTag f).f.toNat 2 2 = f.f.toNat / 4 := by
  have h : ∀ v : BitVec 4, bitsOf v.toNat 2 2 = v.toNat / 4 ∧ bitsOf (v &&& 12).toNat 2 2 = v.toNat / 4 := by decide
  unfold clearTag
  split
  · exact (h f.f).1
  · exact (h f.f).2

/-- The tag K is the low two bits of F. -/
theorem setWidth_two_eq_extractLsb' (f : BitVec 4) : f.setWidth 2 = f.extractLsb' 0 2 :=
  BitVec.setWidth_eq_extractLsb' (by decide)

theorem movBody_warned (f : Fields) (s : State) :
    movBody (ctxOf (.mov f) f s) (warned (.mov f) f s) =
      putTagged (ctxOf (.mov f) f s) (valueS s f.a) (poisonS s f.a) (warned (.mov f) f s) := by
  simp only [movBody, srcS_warned, srcPoison_warned, ctxOf_f, show (read (.mov f) f).a = f.a from clearTag_a _]

theorem liBody_warned (f : Fields) (s : State) :
    liBody (ctxOf (.li f) f s) (warned (.li f) f s) =
      putTagged (ctxOf (.li f) f s) (s.core s.cur).litS false (warned (.li f) f s) := by
  simp only [liBody, litS_warned]

theorem aaddBody_warned (f : Fields) (s : State) :
    aaddBody (ctxOf (.aadd f) f s) (warned (.aadd f) f s) =
      putTagged (ctxOf (.aadd f) f s) (valueS s f.a + valueS s f.b * BitVec.ofNat 64 (2 ^ (f.f.toNat / 4)))
        (poisonS s f.a || poisonS s f.b) (warned (.aadd f) f s) := by
  simp only [aaddBody, srcS_warned, srcPoison_warned, ctxOf_f, show (read (.aadd f) f).a = f.a from clearTag_a _,
    show (read (.aadd f) f).b = f.b from clearTag_b _,
    show bitsOf (read (.aadd f) f).f.toNat 2 2 = f.f.toNat / 4 from clearTag_scale _, shiftLeft_eq_mul_ofNat]

/-- A move writes its value and, to an address register, the tag K of its word (R75, R158). -/
theorem exec_putTagged {i : Instr} {f : Fields} {s : State} {body : Ctx → State → State} {v : Word} {b : Bool}
    (h : issues i f s = true) (he : exec i s = .next (slotExec i f body s)) (hm : modeField i (read i f) = none)
    (hd : (read i f).d = f.d) (hb : body (ctxOf i f s) (warned i f s) = putTagged (ctxOf i f s) v b (warned i f s)) :
    (32 ≤ f.d.toNat → f.d.toNat ≤ 47 →
      exec i s = .next (pushWrite (ctxOf i f s) 1 (.scalar f.d.toNat) ((if b then 0 else v).setWidth 2048)
        (fun q => { q with poison := b, tag := some ((read i f).f.setWidth 2) }) (warned i f s))) ∧
    (f.d.toNat < 32 ∨ 47 < f.d.toNat → exec i s = .next (putS (ctxOf i f s) 1 f.d v b 0 (warned i f s))) := by
  simp only [putTagged, ctxOf_f, hd, ← setWidth_two_eq_extractLsb'] at hb
  rw [he]
  refine ⟨fun hlo hhi => ?_, fun hout => ?_⟩
  · rw [decide_eq_true hlo, decide_eq_true hhi, Bool.and_self, if_pos rfl] at hb
    rw [slotExec_eq_pushWrite h hm hb]
  · rw [if_neg (by simp; omega)] at hb
    rw [slotExec_eq_putS h hm hb]

/-! ### Software traps (R167) -/

theorem trapBody_warned (f : Fields) (s : State) (hp : poisonUse (.trap f) f s = false) :
    trapBody (ctxOf (.trap f) f s) (warned (.trap f) f s) = raiseAt s.cur causeSoft 6 (valueS s f.a) (warned (.trap f) f s) := by
  have ha : poisonS s f.a = false := hp
  simp only [trapBody, srcS_warned, srcPoison_warned, ctxOf_f, show (read (.trap f) f).a = f.a from rfl, ha,
    unlessPoisoned_false, ctxOf_p]

end Sys2Proof.Safety
end

section
/-! SUPPORT. The statements about the scalar slots (chapter 7): integer rows, division, compares, moves and the software trap. -/

namespace Sys2Proof.Proofs

open Sys2Proof.Machine Sys2Proof.Safety

/-- Settles O2: each row's value function is its row of Table 7.1, and the rows share one body. -/
theorem integerRowResult : Obligations.IntegerRowResult := by
  intro i f s lat v st hf hi ht
  cases i with
  | add g =>
    cases hf
    exact congrArg Host.Outcome.next (slotExec_tableInt (val := addVal _) hi ht (tableInt_add ..) rfl rfl)
  | sub g =>
    cases hf
    exact congrArg Host.Outcome.next (slotExec_tableInt (val := subVal _) hi ht (tableInt_sub ..) rfl rfl)
  | and g =>
    cases hf
    exact congrArg Host.Outcome.next (slotExec_tableInt (val := fun a b => (a &&& b, 0)) hi ht rfl rfl rfl)
  | or g =>
    cases hf
    exact congrArg Host.Outcome.next (slotExec_tableInt (val := fun a b => (a ||| b, 0)) hi ht rfl rfl rfl)
  | xor g =>
    cases hf
    exact congrArg Host.Outcome.next (slotExec_tableInt (val := fun a b => (a ^^^ b, 0)) hi ht rfl rfl rfl)
  | andn g =>
    cases hf
    exact congrArg Host.Outcome.next (slotExec_tableInt (val := fun a b => (a &&& ~~~b, 0)) hi ht rfl rfl rfl)
  | shl g =>
    cases hf
    exact congrArg Host.Outcome.next (slotExec_tableInt (val := shlVal) hi ht (tableInt_shl ..) rfl rfl)
  | shr g =>
    cases hf
    exact congrArg Host.Outcome.next (slotExec_tableInt (val := shrVal _) hi ht (tableInt_shr ..) rfl rfl)
  | mul g =>
    cases hf
    exact congrArg Host.Outcome.next (slotExec_tableInt (val := mulVal _) hi ht (tableInt_mul ..) rfl rfl)
  | div g =>
    cases hf
    have hF := clean_below_lt (n := 4) (by decide) f.f
    exact congrArg Host.Outcome.next (slotExec_tableInt (val := divVal _) hi ht (tableInt_div _ _ _ hF) rfl rfl)
  | min g =>
    cases hf
    exact congrArg Host.Outcome.next (slotExec_tableInt (val := minVal _) hi ht (tableInt_min ..) rfl rfl)
  | max g =>
    cases hf
    exact congrArg Host.Outcome.next (slotExec_tableInt (val := maxVal _) hi ht (tableInt_max ..) rfl rfl)
  | bitc g =>
    cases hf
    exact congrArg Host.Outcome.next (slotExec_tableInt (val := fun a _ => bitcVal _ a) hi ht (tableInt_bitc ..) rfl rfl)
  | _ => simp only [tableInt, reduceCtorEq] at ht

/-- Settles O3: every case of R156 is a case of the model's division. -/
theorem divisionCases : Obligations.DivisionCases := by
  intro f s h ha hb a b signed rem writes
  have hF : (read (.div f) f).f.toNat < 4 := clean_below_lt (by decide) f.f
  have hw : ∀ {v : Word} {st : BitVec 6}, divVal (read (.div f) f).f a b = (v, st) → writes v st := exec_div h ha hb
  refine ⟨fun h0 hr => hw ?_, fun h0 hr => hw ?_, fun hs hA hB hr => hw ?_, fun hs hA hB hr => hw ?_,
    fun hs h0 => ?_, fun hs h0 => ?_⟩
  · rw [h0]; exact divVal_zero_quotient hF hr
  · rw [h0]; exact divVal_zero_remainder hF hr
  · rw [hA, hB]; exact divVal_least_quotient hF hs hr
  · rw [hA, hB]; exact divVal_least_remainder hF hs hr
  · have hv := divVal_unsigned (a := a) hF hs h0
    have hpos : 0 < b.toNat := Nat.pos_of_ne_zero fun hz => h0 (BitVec.eq_of_toNat_eq hz)
    refine ⟨a.toNat / b.toNat, a.toNat % b.toNat, (Nat.div_add_mod ..).symm, Nat.mod_lt _ hpos, fun hr => hw ?_, fun hr => hw ?_⟩
    · rw [hv, if_neg hr]
    · rw [hv, if_pos hr]
  · have hv := divVal_signed (a := a) hF hs h0
    have hne : b.toInt ≠ 0 := fun hz => h0 (BitVec.eq_of_toInt_eq hz)
    refine ⟨Int.tdiv a.toInt b.toInt, Int.tmod a.toInt b.toInt, (Int.mul_tdiv_add_tmod ..).symm, natAbs_tmod_lt _ hne,
      tmod_mul_self_nonneg .., fun hr => hw ?_, fun hr => hw ?_⟩
    · rw [hv, if_neg hr]
    · rw [hv, if_pos hr]

/-- Settles O4: CMP's outcome is Table 7.2's, and SEL reads the operand that its predicate selects. -/
theorem compareAndSelect : Obligations.CompareAndSelect := by
  refine ⟨fun f s h => ?_, fun f s h => ⟨_, rfl, congrArg Host.Outcome.next (slotExec_eq_putS h rfl (selBody_warned f s))⟩⟩
  obtain ⟨htrap, hwrite⟩ := slotExec_unlessPoisoned_putP h rfl (cmpBody_warned f s)
  rw [slotInfo_scalar rfl] at htrap
  refine ⟨fun hp => congrArg Host.Outcome.next (htrap hp), fun hp hd => congrArg Host.Outcome.next ?_,
    fun hp hd hc => congrArg Host.Outcome.next ?_, fun hp hd hc => congrArg Host.Outcome.next ?_⟩ <;> rw [hwrite hp]
  · rw [hd]
    rfl
  · rw [(cmpVal_iff ..).mpr hc]
    rfl
  · rw [eq_false_of_ne_true (mt (cmpVal_iff ..).mp hc)]
    rfl

/-- Settles O6: the three rows share one write, and only a word with an address register as D keeps its tag bits. -/
theorem moveResult : Obligations.MoveResult := by
  intro i f s v b hf h hv
  rcases hv with ⟨⟨g, rfl⟩, rfl, rfl⟩ | ⟨⟨g, rfl⟩, rfl, rfl⟩ | ⟨⟨g, rfl⟩, rfl, rfl⟩ <;> cases hf
  · exact exec_putTagged h rfl rfl (clearTag_d _) (movBody_warned f s)
  · exact exec_putTagged h rfl rfl (clearTag_d _) (liBody_warned f s)
  · exact exec_putTagged h rfl rfl (clearTag_d _) (aaddBody_warned f s)

/-- Settles O8: FCMP's outcome is the condition of R173. -/
theorem floatCompare : Obligations.FloatCompare := by
  intro f s b h x m
  obtain ⟨htrap, hwrite⟩ := slotExec_unlessPoisoned_putP h rfl (fcmpBody_warned f s)
  rw [slotInfo_scalar rfl] at htrap
  refine ⟨fun hp => congrArg Host.Outcome.next (htrap hp), fun hp hb => ?_⟩
  have hval : fcmpVal x.f (valueS s x.a) (valueS s x.b) = b := Bool.eq_iff_iff.mpr ((fcmpVal_iff ..).trans hb.symm)
  refine ⟨fun hd => congrArg Host.Outcome.next ?_, fun hd => congrArg Host.Outcome.next ?_⟩ <;> rw [hwrite hp]
  · rw [show (read (.fcmp f) f).d = 0 from hd]
    rfl
  · rw [show fcmpVal _ _ _ = b from hval]
    rfl

/-- Settles O16: TRAP raises SOFT at its own bundle, and a false guard leaves nothing but WARN bits. -/
theorem softTrap : Obligations.SoftTrap := by
  refine fun f s => ⟨fun h hp => ?_, fun ho hc hg => ?_⟩
  · exact congrArg Host.Outcome.next (slotExec_eq_trapped h (trapBody_warned f s hp))
  · have hrun := slotExec_unguarded trapBody ho (.inl rfl) hc rfl hg
    rw [counted_of_modeField_none rfl] at hrun
    exact congrArg Host.Outcome.next hrun

end Sys2Proof.Proofs
end

section
/-! SUPPORT. Predicate logic of the V slot: the fields that PLOG reads, its fallback, and its operations bit by bit (R203). -/

namespace Sys2Proof.Safety

open Sys2Proof.Machine

/-! ### The fields of PLOG (R82, R203) -/

@[simp] theorem physP_warned (i : Instr) (f : Fields) (s : State) (n : Nat) :
    ((ctxOf i f s).core (warned i f s)).work.physP n = (s.core s.cur).work.physP n := by
  obtain ⟨ws, h⟩ := warned_core i f s
  simp only [Ctx.core, ctxOf_p, h]
  rfl

/-- A field that names a predicate is read without its bits [5:4]. -/
theorem toNat_and_fifteen (v : BitVec 6) : (v &&& 15).toNat = v.toNat % 16 := by
  rw [BitVec.toNat_and]
  exact Nat.and_two_pow_sub_one_eq_mod v.toNat 4

/-- Reading the bits [5:4] as zero changes the field exactly where one of them is set. -/
theorem low4_clean_ne_iff (v : BitVec 6) : Role.low4.clean v ≠ v ↔ 16 ≤ v.toNat := by
  have hclean : (Role.low4.clean v).toNat = v.toNat % 16 := toNat_and_fifteen v
  rw [Ne, ← BitVec.toNat_inj, hclean]
  omega

/-- A PLOG that issues has one of the eight operations in F. -/
theorem plog_operation_lt {u : VUnit} {f : Fields} {s : State} (h : issues (.plog u f) f s = true) : f.f.toNat < 8 := by
  simp only [issues, Bool.and_eq_true] at h
  obtain ⟨⟨⟨hoperands, -⟩, -⟩, -⟩ := h
  have hlisted : [0, 1, 2, 3, 4, 5, 6, 7].contains f.f.toNat = true := hoperands
  have hmem : f.f.toNat ∈ List.range 8 := List.contains_iff_mem.mp hlisted
  exact List.mem_range.mp hmem

/-- RSVF is the one fallback that PLOG can take, for a set bit in [5:4] of D, A or B. -/
theorem warnBits_plog (u : VUnit) (f : Fields) (lx : Bool) :
    warnBits (.plog u f) f lx =
      warnIf (decide (16 ≤ f.d.toNat ∨ 16 ≤ f.a.toNat ∨ 16 ≤ f.b.toNat)) warnRSVF := by
  have hrsvf : rsvfFields ⟨.low4, .low4, .low4, .formats [0, 1, 2, 3, 4, 5, 6, 7]⟩ f =
      decide (16 ≤ f.d.toNat ∨ 16 ≤ f.a.toNat ∨ 16 ≤ f.b.toNat) := by
    simp [rsvfFields, low4_clean_ne_iff, Bool.or_assoc, -ne_eq]
  simp [warnBits, rowSpec, hrsvf, litFields, Role.readsLit, modField, entryWarn, modeWarn, modeField, warnIf]

theorem warnIf_RSVF_eq_two_iff (b : Bool) : warnIf b warnRSVF = 2 ↔ b = true := by
  revert b
  decide

/-! ### The operations of PLOG (R203) -/

/-- Each bit of the model's result is the operation on the bits of A and B. -/
theorem getLsbD_plogVal {n l : Nat} (a b : Word) (hn : n < 8) (hl : l < 64) :
    (plogVal n a b).getLsbD l = tablePlog n (a.getLsbD l) (b.getLsbD l) := by
  match n, hn with
  | 0, _ | 1, _ | 2, _ | 3, _ | 4, _ | 5, _ | 6, _ | 7, _ => simp [plogVal, tablePlog, hl]

theorem plogBody_warned (u : VUnit) (f : Fields) (s : State) :
    plogBody (ctxOf (.plog u f) f s) (warned (.plog u f) f s) =
      putP (ctxOf (.plog u f) f s) 2 (f.d.toNat % 16)
        (plogVal f.f.toNat (valueP s (f.a.toNat % 16)) (valueP s (f.b.toNat % 16))) (lanes f s)
        (warned (.plog u f) f s) := by
  have hread : read (.plog u f) f = ⟨f.d &&& 15, f.a &&& 15, f.b &&& 15, f.g, f.f⟩ := rfl
  simp only [plogBody, laneGuard, readP_warned, ctxOf_f, hread, toNat_and_fifteen, lanes]

/-- A result for p0, or one that the guard lets write no bit, is discarded. -/
theorem putP_discarded {n : Nat} {mask : Word} (x : Ctx) (lat : Nat) (v : Word) (s : State) (h : n = 0 ∨ mask = 0) :
    putP x lat n v mask s = s := if_pos h

/-- Any other result for a predicate is one pending write under its mask. -/
theorem putP_other {n : Nat} {mask : Word} (x : Ctx) (lat : Nat) (v : Word) (s : State) (hn : n ≠ 0) (hm : mask ≠ 0) :
    putP x lat n v mask s =
      pushWrite x lat (.pred ((x.core s).work.physP n)) (v.setWidth 2048) (fun q => { q with mask := mask }) s :=
  if_neg (not_or.mpr ⟨hn, hm⟩)

end Sys2Proof.Safety
end

section
/-! SUPPORT. The statements about predicate logic in the V slot (chapter 8). -/

namespace Sys2Proof.Proofs

open Sys2Proof.Machine Sys2Proof.Safety

/-- Settles O25: PLOG puts its result under the mask of its guard, and its result is bit by bit the operation of R203. -/
theorem predicateLogic : Obligations.PredicateLogic := by
  intro u f s h a b
  have hrun : exec (.plog u f) s = .next (putP (ctxOf (.plog u f) f s) 2 (f.d.toNat % 16) (plogVal f.f.toNat a b)
      (lanes f s) (warned (.plog u f) f s)) :=
    congrArg Host.Outcome.next (slotExec_eq_putP h rfl (plogBody_warned u f s))
  refine ⟨fun hd => ?_, fun hd hl => ⟨plogVal f.f.toNat a b, ?_, fun l => getLsbD_plogVal a b (plog_operation_lt h)⟩, ?_⟩
  · rw [hrun, putP_discarded _ _ _ _ hd]
  · rw [hrun, putP_other _ _ _ _ hd hl, physP_warned]
  · rw [warnBits_plog, warnIf_RSVF_eq_two_iff, decide_eq_true_iff]

end Sys2Proof.Proofs
end
